-- ==== Sys2Proof/Word.lean ====
section
/-! DEFINITION. The widths of the block's values (00_scope.md R3, R5; 30_encoding.md R60, R64). -/

namespace Sys2Proof

/-- A register, an operand VAL or response data: 16 bits (R3, R44). -/
abbrev Word := BitVec 16

/-- A command word: 32 bits (R60). -/
abbrev CmdWord := BitVec 32

/-- The CP field of CRC_BYTE: 21 bits (R64). -/
abbrev Cp := BitVec 21

/-- The low byte of a character, which is all CRC_BYTE uses (R65). -/
abbrev Byte := BitVec 8

/-- A Unicode code point, 0 to 0x10FFFF, surrogates included (R64, R65; log 12). -/
abbrev CodePoint := Fin 0x110000

/-- A payload: a sequence of code points (00_scope.md section 6; log 12). -/
abbrev Text := List CodePoint

end Sys2Proof
end

