-- ==== Sys2Proof/Syntax.lean ====
section
/-! DEFINITION. The commands of the block, one constructor for each row of the opcode map
(30_encoding.md R66), and the assembly language that names them (R70, R71). -/

namespace Sys2Proof

/-- The seven commands. Their operands have the widths of their fields (R63, R64), so every term is a
command the block performs. -/
inductive Instr where
  /-- CRC_INIT, format N: 40_crc_datapath.md R84. -/
  | crcInit
  /-- CRC_BYTE cp, format D: 40_crc_datapath.md R85. -/
  | crcByte (cp : Cp)
  /-- CRC_READ, format N: 40_crc_datapath.md R86. -/
  | crcRead
  /-- POLY_WRITE val, format V: 41_config.md R110. -/
  | polyWrite (val : Word)
  /-- INIT_WRITE val, format V: 41_config.md R111. -/
  | initWrite (val : Word)
  /-- POLY_READ, format N: 41_config.md R112. -/
  | polyRead
  /-- INIT_READ, format N: 41_config.md R113. -/
  | initRead
deriving DecidableEq, Repr

/-- What a command word decodes to: one of the seven commands or ILLEGAL (R69). -/
inductive Decoded where
  | command (i : Instr)
  /-- The word of an IllegalCommand (R67). -/
  | illegal
deriving DecidableEq, Repr

/-- A row of the opcode map (R66): `w` is the row's command when `w &&& mask = pattern`. -/
structure OpcodeRow where
  mnemonic : String
  pattern : CmdWord
  mask : CmdWord
deriving DecidableEq, Repr

/-- An operand as an assembler reads it (R70): a number, or a character in single quotes. -/
inductive AsmOperand where
  | number (n : Nat)
  | character (c : CodePoint)
deriving DecidableEq, Repr

/-- A statement of the assembly language: the seven mnemonics (R70) and the two pseudo-commands
(R71). -/
inductive AsmStmt where
  | crcInit
  | crcByte (cp : AsmOperand)
  | crcRead
  | polyWrite (val : AsmOperand)
  | initWrite (val : AsmOperand)
  | polyRead
  | initRead
  /-- `CRC_START poly, init`. -/
  | crcStart (poly init : AsmOperand)
  /-- `CRC_STR "text"`. -/
  | crcStr (text : Text)
deriving DecidableEq, Repr

/-- A lexical token of an assembly line. -/
inductive AsmToken where
  /-- A mnemonic or a number. -/
  | word (cs : List Char)
  /-- A character in single quotes. -/
  | character (c : CodePoint)
  /-- Text in double quotes. -/
  | text (t : Text)
  | comma
deriving DecidableEq, Repr

end Sys2Proof
end

