-- ==== Sys2Proof/WellFormed.lean ====
section
/-! DEFINITION. Which terms are well formed. A command's operands have their fields' widths in their
types, and the spec allows every value of those widths (30_encoding.md R65; 10_state.md R23, R24), so
the checks that can fail are the assembler's, on operands still written as numbers (R70). -/

namespace Sys2Proof

/-- The operand as a number: a character literal stands for its code point (R70). -/
def AsmOperand.value : AsmOperand → Nat
  | .number n => n
  | .character c => c.val

/-- "A VAL operand must fit in 16 bits", and it is a number: a character literal is allowed for
CRC_BYTE only (R70). -/
def AsmOperand.fitsVal : AsmOperand → Bool
  | .number n => n < 2 ^ 16
  | .character _ => false

/-- A CP operand must fit in 21 bits; it is a number or a character literal (R70). -/
def AsmOperand.fitsCp (o : AsmOperand) : Bool :=
  o.value < 2 ^ 21

/-- The statements an assembler accepts: "an assembler refuses any other operand" (R70). -/
def AsmStmt.wellFormed : AsmStmt → Bool
  | .crcInit => true
  | .crcByte cp => cp.fitsCp
  | .crcRead => true
  | .polyWrite val => val.fitsVal
  | .initWrite val => val.fitsVal
  | .polyRead => true
  | .initRead => true
  | .crcStart poly init => poly.fitsVal && init.fitsVal
  | .crcStr _ => true

/-- Every command is well formed: all 2^21 values of CP and all 2^16 values of VAL are legal
operands (30_encoding.md R65; 60_exceptions.md R150). -/
def Instr.wellFormed : Instr → Bool
  | .crcInit => true
  | .crcByte cp => cp.toNat < 2 ^ 21
  | .crcRead => true
  | .polyWrite val => val.toNat < 2 ^ 16
  | .initWrite val => val.toNat < 2 ^ 16
  | .polyRead => true
  | .initRead => true

end Sys2Proof
end

