-- ==== Sys2Proof/Decode.lean ====
section
/-! DEFINITION. Decoding of command words, total on all 2^32 of them, and the encoder
(30_encoding.md R60 to R72). -/

namespace Sys2Proof

/-- The opcode field `OP = w[31:28]` (R61). -/
def opField (w : CmdWord) : BitVec 4 := w.extractLsb' 28 4

/-- The operand of format V, `VAL = w[15:0]` (R63). -/
def valField (w : CmdWord) : Word := w.extractLsb' 0 16

/-- The operand of format D, `CP = w[20:0]` (R64). -/
def cpField (w : CmdWord) : Cp := w.extractLsb' 0 21

/-- Format N: bits [27:0] must be zero (R62). -/
def zeroBitsN (w : CmdWord) : Bool := w.extractLsb' 0 28 == 0#28

/-- Format V: bits [27:16] must be zero (R63). -/
def zeroBitsV (w : CmdWord) : Bool := w.extractLsb' 16 12 == 0#12

/-- Format D: bits [27:21] must be zero (R64). -/
def zeroBitsD (w : CmdWord) : Bool := w.extractLsb' 21 7 == 0#7

/-- `decode` of R69: one of the seven commands, or ILLEGAL. -/
def decode (w : CmdWord) : Decoded :=
  if opField w = 0x1#4 ∧ zeroBitsN w then .command .crcInit
  else if opField w = 0x2#4 ∧ zeroBitsD w then .command (.crcByte (cpField w))
  else if opField w = 0x3#4 ∧ zeroBitsN w then .command .crcRead
  else if opField w = 0x4#4 ∧ zeroBitsV w then .command (.polyWrite (valField w))
  else if opField w = 0x5#4 ∧ zeroBitsV w then .command (.initWrite (valField w))
  else if opField w = 0x6#4 ∧ zeroBitsN w then .command .polyRead
  else if opField w = 0x7#4 ∧ zeroBitsN w then .command .initRead
  else .illegal

/-- The opcode of a command (R66). -/
def Instr.opcode : Instr → BitVec 4
  | .crcInit => 0x1#4
  | .crcByte _ => 0x2#4
  | .crcRead => 0x3#4
  | .polyWrite _ => 0x4#4
  | .initWrite _ => 0x5#4
  | .polyRead => 0x6#4
  | .initRead => 0x7#4

/-- The `operand` of R72: `0` for format N, VAL for format V, CP for format D. -/
def Instr.operandBits : Instr → CmdWord
  | .crcInit => 0#32
  | .crcByte cp => cp.setWidth 32
  | .crcRead => 0#32
  | .polyWrite val => val.setWidth 32
  | .initWrite val => val.setWidth 32
  | .polyRead => 0#32
  | .initRead => 0#32

/-- `word = (OP << 28) | operand` (R72). -/
def encode (i : Instr) : CmdWord :=
  (i.opcode.setWidth 32 <<< 28) ||| i.operandBits

/-- The opcode map as a table of match and mask (R66). `decode` does not read it; that the two agree
is stated, not assumed. -/
def opcodeTable : List OpcodeRow := [
  ⟨"CRC_INIT", 0x10000000#32, 0xFFFFFFFF#32⟩,
  ⟨"CRC_BYTE", 0x20000000#32, 0xFFE00000#32⟩,
  ⟨"CRC_READ", 0x30000000#32, 0xFFFFFFFF#32⟩,
  ⟨"POLY_WRITE", 0x40000000#32, 0xFFFF0000#32⟩,
  ⟨"INIT_WRITE", 0x50000000#32, 0xFFFF0000#32⟩,
  ⟨"POLY_READ", 0x60000000#32, 0xFFFFFFFF#32⟩,
  ⟨"INIT_READ", 0x70000000#32, 0xFFFFFFFF#32⟩]

/-- A word is the command of a row when `(w & mask) == match` (R66). -/
def OpcodeRow.fits (r : OpcodeRow) (w : CmdWord) : Bool := w &&& r.mask == r.pattern

/-- A command's mnemonic in the opcode map (R66, R70). -/
def Instr.mnemonic : Instr → String
  | .crcInit => "CRC_INIT"
  | .crcByte _ => "CRC_BYTE"
  | .crcRead => "CRC_READ"
  | .polyWrite _ => "POLY_WRITE"
  | .initWrite _ => "INIT_WRITE"
  | .polyRead => "POLY_READ"
  | .initRead => "INIT_READ"

/-- The command word whose low `nbits` bits are those of `w` and whose other bits are 0. A command is
one 32-bit unit with no byte order (20_memory.md R48; log 18). -/
def tableWord (nbits w : Nat) : CmdWord := BitVec.ofNat 32 (w % 2 ^ nbits)

/-- The command `decode` reads from an opcode-table word, `none` where it is ILLEGAL. -/
def decodeTableWord (nbits w : Nat) : Option Instr :=
  match decode (tableWord nbits w) with
  | .command i => some i
  | .illegal => none

end Sys2Proof
end

