-- ==== Sys2Proof/Machine/Operands.lean ====
section
/-! DEFINITION. How a command's operand is used (30_encoding.md R65): never sign-extended, scaled or
shifted. -/

namespace Sys2Proof.Machine

/-- CRC_BYTE uses only `CP[7:0]`; `CP[20:8]` has no effect (R65; 40_crc_datapath.md R85). -/
def charByte (cp : Cp) : Byte := cp.extractLsb' 0 8

/-- VAL is written to its register unchanged (R65). -/
def writeValue (val : Word) : Word := val

end Sys2Proof.Machine
end

