-- ==== Sys2Proof/Machine/Flags.lean ====
section
/-! DEFINITION. The block has no flags and no condition codes (10_state.md R26). The one status it
gives is the `err` bit of a response, which is not stored (20_memory.md R44). -/

namespace Sys2Proof.Machine

/-- The `err` bit of every legal command (R44; 60_exceptions.md R150). -/
def errLegal : Bool := false

/-- The `err` bit of an IllegalCommand (R44; 60_exceptions.md R151). -/
def errIllegal : Bool := true

/-- The response data of every command that reads nothing, and of an IllegalCommand (R44). -/
def noData : Word := 0x0000#16

end Sys2Proof.Machine
end

