-- ==== Sys2Proof/Config.lean ====
section
/-! DEFINITION. The parameters of 00_scope.md section 4 and the values the spec leaves open. -/

namespace Sys2Proof

/-- `CRC_RESET` (10_state.md R21; 70_reset_and_hazards.md R171). -/
def Config.crcReset : Word := 0xFFFF#16

/-- `POLY_RESET`, the source's default polynomial (00_scope.md R4; 10_state.md R23). -/
def Config.polyReset : Word := 0x1021#16

/-- `INIT_RESET`, the source's default initial value (00_scope.md R4; 10_state.md R24). -/
def Config.initReset : Word := 0xFFFF#16

/-- `HOST_SEGMENTATION`, left OPEN: how a host cuts text into characters
(42_host_sequence.md R135). Every function that depends on it takes it as an argument. -/
inductive Segmentation where
  /-- One character per Unicode code point. -/
  | codePoint
  /-- One character per UTF-16 code unit. -/
  | utf16Unit
deriving DecidableEq, Repr

/-- What a register holds after power-on (70_reset_and_hazards.md R170) or after a stopped clock
(60_exceptions.md R162): unspecified, so a free value, one for each draw. Log 7 and 8. -/
opaque Config.unknownRegister : Nat → Word

end Sys2Proof
end

