-- ==== Sys2Proof/Machine/State.lean ====
section
/-! DEFINITION. The state of the block and of its port, the reasons a step can stop, and the state
after reset (10_state.md; 20_memory.md; 70_reset_and_hazards.md). -/

namespace Sys2Proof.Machine

/-- The names of the three registers, for `R[name]` (00_scope.md R7). -/
inductive RegName where
  | CRC
  | POLY
  | INIT
deriving DecidableEq, Repr

/-- A response `(data, err)` (20_memory.md R44). -/
structure Response where
  data : Word
  err : Bool
deriving DecidableEq, Repr

/-- One rising edge of `clk`: the input pins (20_memory.md R41) and, in the last two fields, what the
implementation chose for the cycle before it, since the spec does not fix when a block is ready or
when it raises a response (R43; 70_reset_and_hazards.md R181; log 3). -/
structure Edge where
  rst : Bool
  cmdValid : Bool
  cmdWord : CmdWord
  respReady : Bool
  /-- The implementation is ready for a command. -/
  readyChoice : Bool
  /-- The implementation raises the oldest waiting response, if it has not yet done so. -/
  raiseChoice : Bool
deriving DecidableEq, Repr

/-- One thing that happens to the block from outside. -/
inductive HostInput where
  | edge (e : Edge)
  /-- The clock stopped and runs again (60_exceptions.md R162). -/
  | clockStopped
  /-- Power was removed and restored (10_state.md R27). -/
  | powerCycled
deriving DecidableEq, Repr

/-- The block. The first three fields are its architectural state (R20); `pending`, `respRaised` and
`offered` are its port (20_memory.md R42, R43); the others stand for the outside and for open values
(log 1). -/
structure State where
  /-- The running remainder (R21). -/
  crc : Word
  /-- The feedback polynomial (R23). -/
  poly : Word
  /-- The initial register value (R24). -/
  init : Word
  /-- A reset edge has happened since power came on (R170). -/
  resetDone : Bool
  /-- Responses produced and not yet delivered, oldest first (R43). -/
  pending : List Response
  /-- `resp_valid` was raised for the oldest pending response (R43). -/
  respRaised : Bool
  /-- The word presented at the last edge and not accepted, which the host must hold (R42). -/
  offered : Option CmdWord
  /-- What will happen at the coming steps, next first. -/
  inputs : List HostInput
  /-- The responses the host has received, oldest first. -/
  delivered : List Response
  /-- How many free values have been drawn. -/
  draws : Nat
deriving DecidableEq, Repr

/-- Reasons for which the machine stops with a fault: none. The block's one error, IllegalCommand, is
a response (60_exceptions.md R151), and a host that takes no response leaves it "stuck, not faulted"
(70_reset_and_hazards.md R178). Log 11. -/
inductive Fault where
deriving DecidableEq, Repr

/-- Reasons for which the model gives a step no meaning. -/
inductive Refusal where
  /-- An instruction with no meaning yet. Raised by no arm of `exec`: all seven are modelled. Safe. -/
  | notModelled (mnemonic : String)
  /-- Raised by `clockEdge`: the host presented a command, or offered to take a response, before the
  first reset. "A model refuses every command sent before the first reset" (R170). Safe; log 6. -/
  | portUsedBeforeReset
  /-- Raised by `clockEdge`: the host changed or withdrew a command before it was accepted, so that
  "which word is accepted is unspecified" (R42), which 93_implementation_defined.md treats as
  `refuse`. Safe for the block; an assumption on the host. Log 5. -/
  | offerNotHeld
deriving DecidableEq, Repr

/-- The state after reset, `s_0` of 20_memory.md R45: the registers as 70_reset_and_hazards.md R171
sets them, the port idle, nothing yet to happen. -/
def State.reset : State where
  crc := Config.crcReset
  poly := Config.polyReset
  init := Config.initReset
  resetDone := true
  pending := []
  respRaised := false
  offered := none
  inputs := []
  delivered := []
  draws := 0

end Sys2Proof.Machine
end

