-- ==== Sys2Proof/Machine/Ops.lean ====
section
/-! DEFINITION. The operations the commands share: register access, responses, IllegalCommand, reset,
and what power and clock do (00_scope.md R7; 60_exceptions.md R151; 70_reset_and_hazards.md). -/

namespace Sys2Proof.Machine

/-- `R[name]` (00_scope.md R7). -/
def State.readReg (s : State) : RegName → Word
  | .CRC => s.crc
  | .POLY => s.poly
  | .INIT => s.init

/-- `R[name] <- v` (00_scope.md R7). -/
def State.writeReg (s : State) (name : RegName) (v : Word) : State :=
  match name with
  | .CRC => { s with crc := v }
  | .POLY => { s with poly := v }
  | .INIT => { s with init := v }

/-- `respond(data, err)` (00_scope.md R7): the port holds the response behind the older ones, since
responses come in the order their commands were accepted (20_memory.md R43). -/
def State.respond (s : State) (data : Word) (err : Bool) : State :=
  { s with pending := s.pending ++ [⟨data, err⟩] }

/-- IllegalCommand, the block's one exception: no register is written and the response is
`(0x0000, 1)`. It saves nothing, changes no mode and transfers no control, and it keeps no copy of the
word (60_exceptions.md R151, R155). There is no return from it (R156). -/
def State.illegalCommand (s : State) (_word : CmdWord) : State :=
  s.respond noData errIllegal

/-- The reset values of the three registers (70_reset_and_hazards.md R171). -/
def State.resetRegisters (s : State) : State :=
  ((s.writeReg .CRC Config.crcReset).writeReg .POLY Config.polyReset).writeReg .INIT
    Config.initReset

/-- Reset discards every undelivered response, and `resp_valid` is 0 (R171, R172). A word presented
under reset is not accepted, and the host holds it (20_memory.md R42; log 5). -/
def State.applyReset (s : State) (presented : Option CmdWord) : State :=
  { s.resetRegisters with
    resetDone := true, pending := [], respRaised := false, offered := presented }

/-- The three registers at free values, fresh ones each time. -/
def State.forgetRegisters (s : State) : State :=
  { s with
    crc := Config.unknownRegister s.draws
    poly := Config.unknownRegister (s.draws + 1)
    init := Config.unknownRegister (s.draws + 2)
    draws := s.draws + 3 }

/-- Power removed and restored: the registers are unspecified and the block has had no reset
(10_state.md R27; 70_reset_and_hazards.md R170; log 7). -/
def State.powerCycle (s : State) : State :=
  { s.forgetRegisters with
    resetDone := false, pending := [], respRaised := false, offered := none }

/-- The clock stopped: whether the registers survive is not specified (60_exceptions.md R162;
log 8). -/
def State.clockStop (s : State) : State := s.forgetRegisters

end Sys2Proof.Machine
end

