-- ==== Sys2Proof/Machine/ConfigCommands.lean ====
section
/-! DEFINITION. The configuration commands (41_config.md R110 to R113). -/

namespace Sys2Proof.Machine

/-- POLY_WRITE: `R[POLY] <- val`, `respond(0x0000, 0)` (R110). -/
def execPolyWrite (val : Word) (s : State) : Host.Outcome State Fault Refusal :=
  .next ((s.writeReg .POLY (writeValue val)).respond noData errLegal)

/-- INIT_WRITE: `R[INIT] <- val`, `respond(0x0000, 0)`; CRC is not loaded (R111). -/
def execInitWrite (val : Word) (s : State) : Host.Outcome State Fault Refusal :=
  .next ((s.writeReg .INIT (writeValue val)).respond noData errLegal)

/-- POLY_READ: `respond(R[POLY], 0)` (R112). -/
def execPolyRead (s : State) : Host.Outcome State Fault Refusal :=
  .next (s.respond (s.readReg .POLY) errLegal)

/-- INIT_READ: `respond(R[INIT], 0)` (R113). -/
def execInitRead (s : State) : Host.Outcome State Fault Refusal :=
  .next (s.respond (s.readReg .INIT) errLegal)

end Sys2Proof.Machine
end

