-- ==== Sys2Proof/Machine/Datapath.lean ====
section
/-! DEFINITION. The 16-bit datapath (40_crc_datapath.md R81 to R83) and the other forms the spec gives
it (R99, R100). -/

namespace Sys2Proof.Machine

/-- `inject(r, b)`: XOR the byte into `r[15:8]` (R81). -/
def inject (r : Word) (b : Byte) : Word := r ^^^ (b.setWidth 16 <<< 8)

/-- `step1(r, p)`: one bit step. Bit 15 is tested before the shift; the shift comes first and the XOR
second (R82). -/
def step1 (r p : Word) : Word :=
  if r.getLsbD 15 then (r <<< 1) ^^^ p else r <<< 1

/-- `n` bit steps, all with the same polynomial. -/
def bitSteps : Nat → Word → Word → Word
  | 0, r, _ => r
  | n + 1, r, p => bitSteps n (step1 r p) p

/-- `absorb(r, p, b)`: one inject and exactly eight bit steps (R83). -/
def absorb (r p : Word) (b : Byte) : Word := bitSteps 8 (inject r b) p

/-- Absorb bytes in order. -/
def absorbAll (r p : Word) : List Byte → Word
  | [] => r
  | b :: bs => absorbAll (absorb r p b) p bs

/-- `unstep1(s, p)`, the inverse of `step1` when `p[0] = 1` (R99):
`{1, (s ^ p)[15:1]}` or `{0, s[15:1]}`. -/
def unstep1 (s p : Word) : Word :=
  if s.getLsbD 0 then ((s ^^^ p) >>> 1) ||| 0x8000#16 else s >>> 1

/-- One pass of the loop of R100, for data bit `i`. -/
def serialStep (r p : Word) (b : Byte) (i : Nat) : Word :=
  (r <<< 1) ^^^ (if r.getLsbD 15 ^^ b.getLsbD i then p else 0#16)

/-- The passes of R100 for data bits `n - 1` down to 0. -/
def serialSteps : Nat → Word → Word → Byte → Word
  | 0, r, _, _ => r
  | n + 1, r, p, b => serialSteps n (serialStep r p b n) p b

/-- `absorb_serial(r, p, b)` (R100). -/
def absorbSerial (r p : Word) (b : Byte) : Word := serialSteps 8 r p b

end Sys2Proof.Machine
end

