-- ==== Sys2Proof/Machine/CrcCommands.lean ====
section
/-! DEFINITION. The datapath commands (40_crc_datapath.md R84 to R86). Each reads registers only from
the state it starts in (00_scope.md R7). -/

namespace Sys2Proof.Machine

/-- CRC_INIT: `R[CRC] <- R[INIT]`, `respond(0x0000, 0)` (R84). -/
def execCrcInit (s : State) : Host.Outcome State Fault Refusal :=
  .next ((s.writeReg .CRC (s.readReg .INIT)).respond noData errLegal)

/-- CRC_BYTE: `R[CRC] <- absorb(R[CRC], R[POLY], cp[7:0])`, `respond(0x0000, 0)` (R85). -/
def execCrcByte (cp : Cp) (s : State) : Host.Outcome State Fault Refusal :=
  .next ((s.writeReg .CRC (absorb (s.readReg .CRC) (s.readReg .POLY) (charByte cp))).respond
    noData errLegal)

/-- CRC_READ: `respond(R[CRC], 0)`, with no reflection and no final XOR (R86). -/
def execCrcRead (s : State) : Host.Outcome State Fault Refusal :=
  .next (s.respond (s.readReg .CRC) errLegal)

end Sys2Proof.Machine
end

