-- ==== Sys2Proof/Machine/Dispatch.lean ====
section
/-! DEFINITION. The meaning of each command, one arm per row of the opcode map (20_memory.md R45). -/

namespace Sys2Proof.Machine

def exec (i : Instr) (s : State) : Host.Outcome State Fault Refusal :=
  match i with
  | .crcInit => Sys2Proof.Machine.execCrcInit s
  | .crcByte cp => Sys2Proof.Machine.execCrcByte cp s
  | .crcRead => Sys2Proof.Machine.execCrcRead s
  | .polyWrite val => Sys2Proof.Machine.execPolyWrite val s
  | .initWrite val => Sys2Proof.Machine.execInitWrite val s
  | .polyRead => Sys2Proof.Machine.execPolyRead s
  | .initRead => Sys2Proof.Machine.execInitRead s

end Sys2Proof.Machine
end

