-- ==== Sys2Proof/Machine/Port.lean ====
section
/-! DEFINITION. The command port at one rising edge of `clk` (20_memory.md R41 to R45;
70_reset_and_hazards.md R170 to R172). -/

namespace Sys2Proof.Machine

/-- Perform one accepted command word (20_memory.md R45): the meaning of the command it decodes to, or
IllegalCommand. -/
def performWord (w : CmdWord) (s : State) : Host.Outcome State Fault Refusal :=
  match decode w with
  | .command i => exec i s
  | .illegal => .next (s.illegalCommand w)

/-- Perform accepted words in order (R45). -/
def performWords : List CmdWord → State → Host.Outcome State Fault Refusal
  | [], s => .next s
  | w :: ws, s =>
    match performWord w s with
    | .next t => performWords ws t
    | .fault r => .fault r
    | .refused r => .refused r

/-- The output pin `cmd_ready`: the implementation's choice, and 0 while `rst` is 1 (R43; R171). -/
def Edge.cmdReady (e : Edge) : Bool := !e.rst && e.readyChoice

/-- A command is accepted where `rst` is 0 and both `cmd_valid` and `cmd_ready` are 1 (R42). -/
def Edge.accepts (e : Edge) : Bool := !e.rst && e.cmdValid && e.cmdReady

/-- The word on `cmd_word`, where the host presents one. -/
def Edge.presented (e : Edge) : Option CmdWord := if e.cmdValid then some e.cmdWord else none

/-- The output pin `resp_valid`: 0 while `rst` is 1 (R171) or no response waits; else 1 once it has
been raised, or when the implementation raises it (R43). -/
def State.respValid (s : State) (e : Edge) : Bool :=
  !e.rst && !s.pending.isEmpty && (s.respRaised || e.raiseChoice)

/-- The response on `resp_data` and `resp_err`: the oldest one waiting, while `resp_valid` is 1. -/
def State.respPins (s : State) (e : Edge) : Option Response :=
  if s.respValid e then s.pending.head? else none

/-- A response is delivered where `resp_valid` and `resp_ready` are 1 (R43). -/
def State.delivers (s : State) (e : Edge) : Bool := s.respValid e && e.respReady

/-- The response side of an edge: the oldest response is delivered, or it stays on the port, raised if
it was raised (R43). -/
def State.responseSide (s : State) (e : Edge) : State :=
  if s.delivers e then
    { s with
      pending := s.pending.tail
      delivered := s.delivered ++ s.pending.head?.toList
      respRaised := false }
  else { s with respRaised := s.respValid e }

/-- The host keeps its duty towards the block (R42): a command presented and not yet accepted is still
presented, and it is the same word. -/
def State.offerHeld (s : State) (e : Edge) : Bool :=
  match s.offered with
  | none => true
  | some w => e.presented == some w

/-- An edge at which `rst` is 0, in a block that was reset: the response side, then the command if one
is accepted (log 4). -/
def runningEdge (e : Edge) (s : State) : Host.Outcome State Fault Refusal :=
  if s.offerHeld e then
    if e.accepts then performWord e.cmdWord { s.responseSide e with offered := none }
    else .next { s.responseSide e with offered := e.presented }
  else .refused .offerNotHeld

/-- An edge at which `rst` is 0 in a block that was never reset: no meaning where the host uses the
port, nothing to see where it does not (R170; log 6). -/
def edgeBeforeReset (e : Edge) (s : State) : Host.Outcome State Fault Refusal :=
  if e.cmdValid || e.respReady then .refused .portUsedBeforeReset else .next s

/-- One rising edge of `clk`. -/
def clockEdge (e : Edge) (s : State) : Host.Outcome State Fault Refusal :=
  if e.rst then .next (s.applyReset e.presented)
  else if s.resetDone then runningEdge e s
  else edgeBeforeReset e s

/-- One thing that happens to the block from outside. -/
def takeInput (i : HostInput) (s : State) : Host.Outcome State Fault Refusal :=
  match i with
  | .edge e => clockEdge e s
  | .clockStopped => .next s.clockStop
  | .powerCycled => .next s.powerCycle

/-- The next input, or nothing: between commands the block is idle and holds its registers
(60_exceptions.md R162; log 10). -/
def stepState (s : State) : Host.Outcome State Fault Refusal :=
  match s.inputs with
  | [] => .next s
  | i :: rest => takeInput i { s with inputs := rest }

/-- The edge at which the host presents `w` and the block is ready for it. -/
def sendEdge (w : CmdWord) : Edge where
  rst := false
  cmdValid := true
  cmdWord := w
  respReady := false
  readyChoice := true
  raiseChoice := false

/-- An edge at which the host presents nothing and takes a response, which the block raises. -/
def takeEdge : Edge where
  rst := false
  cmdValid := false
  cmdWord := 0#32
  respReady := true
  readyChoice := false
  raiseChoice := true

/-- A host that sends words in order and takes each response before it sends the next word. -/
def sendAll : List CmdWord → List HostInput
  | [] => []
  | w :: ws => .edge (sendEdge w) :: .edge takeEdge :: sendAll ws

end Sys2Proof.Machine
end

