-- ==== Sys2Proof/Machine/Step.lean ====
section
/-! DEFINITION. One step of the machine: the next thing that happens at its port. -/

namespace Sys2Proof.Machine

/-- One step (`takeInput` of the next input, if there is one). -/
def step (s : State) : Host.Outcome State Fault Refusal := stepState s

/-- `s` with a host that presents the opcode-table word `w` at the next edge, to a block that is ready
for it: the next step performs exactly that command (20_memory.md R42). Commands come from outside the
block; it holds no program (log 2). No earlier word is still on offer. -/
def State.withFetchWord (s : State) (nbits w : Nat) : State :=
  { s with inputs := .edge (sendEdge (tableWord nbits w)) :: s.inputs, offered := none }

end Sys2Proof.Machine
end

