-- ==== Sys2Proof/Machine/Abstract.lean ====
section
/-! DEFINITION. The abstract semantics of 20_memory.md R45, which leaves the handshake out: a function
from a state and an accepted word to a state and a response. Written from R45 and the command rules'
pseudocode on its own; claims compare the machine with it. -/

namespace Sys2Proof.Machine

/-- `State` of R45: "exactly three 16-bit registers" (10_state.md R20). -/
structure Regs where
  crc : Word
  poly : Word
  init : Word
deriving DecidableEq, Repr

/-- The architectural registers of a machine state. -/
def State.regs (s : State) : Regs := ⟨s.crc, s.poly, s.init⟩

/-- `exec(s, w)` of R45. -/
def abstractExec (r : Regs) (w : CmdWord) : Regs × Response :=
  match decode w with
  | .command .crcInit => (⟨r.init, r.poly, r.init⟩, ⟨0x0000#16, false⟩)
  | .command (.crcByte cp) =>
    (⟨absorb r.crc r.poly (cp.extractLsb' 0 8), r.poly, r.init⟩, ⟨0x0000#16, false⟩)
  | .command .crcRead => (r, ⟨r.crc, false⟩)
  | .command (.polyWrite val) => (⟨r.crc, val, r.init⟩, ⟨0x0000#16, false⟩)
  | .command (.initWrite val) => (⟨r.crc, r.poly, val⟩, ⟨0x0000#16, false⟩)
  | .command .polyRead => (r, ⟨r.poly, false⟩)
  | .command .initRead => (r, ⟨r.init, false⟩)
  | .illegal => (r, ⟨0x0000#16, true⟩)

/-- `exec` applied to each accepted word in turn, with the responses in order (R45). -/
def abstractRun : Regs → List CmdWord → Regs × List Response
  | r, [] => (r, [])
  | r, w :: ws =>
    let (r', resp) := abstractExec r w
    let (r'', resps) := abstractRun r' ws
    (r'', resp :: resps)

/-- `s_0` of R45: the reset state of 70_reset_and_hazards.md R171. -/
def resetRegs : Regs := ⟨0xFFFF#16, 0x1021#16, 0xFFFF#16⟩

end Sys2Proof.Machine
end

