-- ==== Sys2Proof/Machine/HostSequence.lean ====
section
/-! DEFINITION. The host above the port: text to characters, `calculateCRC` as a command sequence, and
the hexadecimal text of the result (42_host_sequence.md R130 to R135). Not state of the block. -/

namespace Sys2Proof.Machine

/-- The UTF-16 units of a code point: itself up to U+FFFF, else its high and low surrogate. The
formula is general knowledge (R135; log 12). -/
def utf16Units (c : CodePoint) : List Cp :=
  if c.val < 0x10000 then [BitVec.ofNat 21 c.val]
  else [BitVec.ofNat 21 (0xD800 + (c.val - 0x10000) / 0x400),
    BitVec.ofNat 21 (0xDC00 + (c.val - 0x10000) % 0x400)]

/-- The characters one code point is sent as (R135). -/
def charsOf (seg : Segmentation) (c : CodePoint) : List Cp :=
  match seg with
  | .codePoint => [BitVec.ofNat 21 c.val]
  | .utf16Unit => utf16Units c

/-- `chars(payload)` (R135). -/
def chars (seg : Segmentation) (payload : Text) : List Cp := payload.flatMap (charsOf seg)

/-- The command sequence of `calculateCRC`, with the rule's two defaults (R130; 00_scope.md R4). -/
def calculateCommands (seg : Segmentation) (payload : Text) (poly : Word := Config.polyReset)
    (init : Word := Config.initReset) : List Instr :=
  [.polyWrite poly, .initWrite init, .crcInit] ++ (chars seg payload).map .crcByte ++ [.crcRead]

/-- The same as command words. -/
def calculateWords (seg : Segmentation) (payload : Text) (poly : Word := Config.polyReset)
    (init : Word := Config.initReset) : List CmdWord :=
  (calculateCommands seg payload poly init).map encode

/-- A hexadecimal digit, from `0123456789ABCDEF` (R131). -/
def hexDigit (d : BitVec 4) : Char :=
  Char.ofNat (if d.toNat < 10 then 48 + d.toNat else 55 + d.toNat)

/-- `FORMAT(v)`: four uppercase digits, most significant first (R131). -/
def formatText (v : Word) : List Char :=
  [hexDigit (v.extractLsb' 12 4), hexDigit (v.extractLsb' 8 4), hexDigit (v.extractLsb' 4 4),
    hexDigit (v.extractLsb' 0 4)]

/-- What the host makes of the responses to R130's sequence: FORMAT of the last one's data, where no
response is an error. -/
def resultText (resps : List Response) : Option (List Char) :=
  if resps.any (·.err) then none else resps.getLast?.map fun r => formatText r.data

/-- `calculateCRC(payload, polynomial = 0x1021, initialValue = 0xFFFF)` run on a block whose registers
are `r`; the defaulted call is `calculateCRC seg payload (r := r)` (R130). -/
def calculateCRC (seg : Segmentation) (payload : Text) (poly : Word := Config.polyReset)
    (init : Word := Config.initReset) (r : Regs) : Option (List Char) :=
  resultText (abstractRun r (calculateWords seg payload poly init)).2

end Sys2Proof.Machine
end

