-- ==== Sys2Proof/Machine/Assembler.lean ====
section
/-! DEFINITION. The assembler (30_encoding.md R70 to R72): a line of text to command words. Not state
of the block. What R70 does not say of a line's lexical form is in log 13. -/

namespace Sys2Proof.Machine

/-- A Lean character's code point. -/
def codePointOf (c : Char) : CodePoint := Fin.ofNat 0x110000 c.toNat

/-- Where the lexer stands in a line. -/
inductive LexMode where
  | gap
  /-- In a word, its characters reversed. -/
  | word (back : List Char)
  /-- After an opening single quote. -/
  | quote
  /-- After a quoted character. -/
  | quoted (c : Char)
  /-- In text, its code points reversed. -/
  | text (back : Text)
deriving DecidableEq, Repr

/-- White space between tokens: a space or a tab. -/
def isGap (c : Char) : Bool := c == ' ' || c.toNat == 9

/-- The tokens of a line. A `;` outside a literal begins a comment (R70). `none` where a literal is
not closed, or a quote stands inside a word. -/
def lexFrom : LexMode → List Char → Option (List AsmToken)
  | .gap, [] => some []
  | .gap, c :: cs =>
    if isGap c then lexFrom .gap cs
    else if c == ';' then some []
    else if c == ',' then (lexFrom .gap cs).map (AsmToken.comma :: ·)
    else if c.toNat == 39 then lexFrom .quote cs
    else if c.toNat == 34 then lexFrom (.text []) cs
    else lexFrom (.word [c]) cs
  | .word back, [] => some [.word back.reverse]
  | .word back, c :: cs =>
    if isGap c then (lexFrom .gap cs).map (AsmToken.word back.reverse :: ·)
    else if c == ';' then some [.word back.reverse]
    else if c == ',' then
      (lexFrom .gap cs).map fun ts => AsmToken.word back.reverse :: AsmToken.comma :: ts
    else if c.toNat == 39 || c.toNat == 34 then none
    else lexFrom (.word (c :: back)) cs
  | .quote, [] => none
  | .quote, c :: cs => lexFrom (.quoted c) cs
  | .quoted _, [] => none
  | .quoted c, q :: cs =>
    if q.toNat == 39 then (lexFrom .gap cs).map (AsmToken.character (codePointOf c) :: ·) else none
  | .text _, [] => none
  | .text back, c :: cs =>
    if c.toNat == 34 then (lexFrom .gap cs).map (AsmToken.text back.reverse :: ·)
    else lexFrom (.text (codePointOf c :: back)) cs

/-- The value of a decimal digit. -/
def decimalDigit (c : Char) : Option Nat :=
  if 48 ≤ c.toNat && c.toNat ≤ 57 then some (c.toNat - 48) else none

/-- The value of a hexadecimal digit, of either case. -/
def hexDigitValue (c : Char) : Option Nat :=
  if 48 ≤ c.toNat && c.toNat ≤ 57 then some (c.toNat - 48)
  else if 65 ≤ c.toNat && c.toNat ≤ 70 then some (c.toNat - 55)
  else if 97 ≤ c.toNat && c.toNat ≤ 102 then some (c.toNat - 87)
  else none

/-- The number that digits stand for, the first the most significant, after `acc`. -/
def digitsValue (base : Nat) (digit : Char → Option Nat) : Nat → List Char → Option Nat
  | acc, [] => some acc
  | acc, c :: cs => (digit c).bind fun d => digitsValue base digit (acc * base + d) cs

/-- A number: decimal, or hexadecimal with `0x` (R70). -/
def parseNumber : List Char → Option Nat
  | [] => none
  | ['0', 'x'] => none
  | '0' :: 'x' :: cs => digitsValue 16 hexDigitValue 0 cs
  | c :: cs => digitsValue 10 decimalDigit 0 (c :: cs)

/-- A token that is an operand: a number or a character literal (R70). -/
def parseOperand : AsmToken → Option AsmOperand
  | .word cs => (parseNumber cs).map .number
  | .character c => some (.character c)
  | .text _ => none
  | .comma => none

/-- The statement of a mnemonic and its operands (R70, R71). -/
def parseStmt (m : List Char) (operands : List AsmToken) : Option AsmStmt :=
  match operands with
  | [] =>
    if m = "CRC_INIT".toList then some .crcInit
    else if m = "CRC_READ".toList then some .crcRead
    else if m = "POLY_READ".toList then some .polyRead
    else if m = "INIT_READ".toList then some .initRead
    else none
  | [.text t] => if m = "CRC_STR".toList then some (.crcStr t) else none
  | [a] =>
    if m = "CRC_BYTE".toList then (parseOperand a).map .crcByte
    else if m = "POLY_WRITE".toList then (parseOperand a).map .polyWrite
    else if m = "INIT_WRITE".toList then (parseOperand a).map .initWrite
    else none
  | [a, .comma, b] =>
    if m = "CRC_START".toList then
      (parseOperand a).bind fun p => (parseOperand b).map fun i => .crcStart p i
    else none
  | _ => none

/-- The statements of a line's tokens: none on a line of blanks and comment only, else one. -/
def parseTokens : List AsmToken → Option (List AsmStmt)
  | [] => some []
  | .word m :: operands => (parseStmt m operands).map ([·])
  | _ :: _ => none

/-- The commands of a well-formed statement: a mnemonic's own, or a pseudo-command's expansion
(R71). -/
def expand (seg : Segmentation) : AsmStmt → List Instr
  | .crcInit => [.crcInit]
  | .crcByte cp => [.crcByte (BitVec.ofNat 21 cp.value)]
  | .crcRead => [.crcRead]
  | .polyWrite val => [.polyWrite (BitVec.ofNat 16 val.value)]
  | .initWrite val => [.initWrite (BitVec.ofNat 16 val.value)]
  | .polyRead => [.polyRead]
  | .initRead => [.initRead]
  | .crcStart poly init =>
    [.polyWrite (BitVec.ofNat 16 poly.value), .initWrite (BitVec.ofNat 16 init.value), .crcInit]
  | .crcStr text => (chars seg text).map .crcByte

/-- Assemble a statement: refused where an operand does not fit (R70). -/
def assemble (seg : Segmentation) (st : AsmStmt) : Option (List CmdWord) :=
  if st.wellFormed then some ((expand seg st).map encode) else none

/-- Assemble a line of text. -/
def assembleLine (seg : Segmentation) (line : List Char) : Option (List CmdWord) :=
  match (lexFrom .gap line).bind parseTokens with
  | none => none
  | some [] => some []
  | some (st :: _) => assemble seg st

/-- A command written out: its mnemonic, then its operand in hexadecimal, six digits for CP and four
for VAL. -/
def render : Instr → List Char
  | .crcInit => "CRC_INIT".toList
  | .crcByte cp =>
    "CRC_BYTE 0x".toList ++ (hexDigit (cp.extractLsb' 20 4) :: hexDigit (cp.extractLsb' 16 4) ::
      formatText (cp.extractLsb' 0 16))
  | .crcRead => "CRC_READ".toList
  | .polyWrite val => "POLY_WRITE 0x".toList ++ formatText val
  | .initWrite val => "INIT_WRITE 0x".toList ++ formatText val
  | .polyRead => "POLY_READ".toList
  | .initRead => "INIT_READ".toList

end Sys2Proof.Machine
end

