-- ==== Sys2Proof/Machine/Reference.lean ====
section
/-! DEFINITION. The source's algorithm on unbounded integers, `CRC_REF` (40_crc_datapath.md R80), and
the same truncated to a width (R92). The machine does not use it; claims compare the machine with it. -/

namespace Sys2Proof.Machine

/-- Step 2b of R80, once, on an unbounded register. -/
def wideStep (r poly : Nat) : Nat :=
  if r.testBit 15 then (r <<< 1) ^^^ poly else r <<< 1

/-- Step 2b of R80, `n` times. -/
def wideSteps : Nat → Nat → Nat → Nat
  | 0, r, _ => r
  | n + 1, r, poly => wideSteps n (wideStep r poly) poly

/-- Steps 2a and 2b of R80 for one character. -/
def wideAbsorb (r poly c : Nat) : Nat := wideSteps 8 (r ^^^ (c <<< 8)) poly

/-- Step 2 of R80 for all characters. -/
def wideAbsorbAll (r poly : Nat) : List Nat → Nat
  | [] => r
  | c :: cs => wideAbsorbAll (wideAbsorb r poly c) poly cs

/-- `CRC_REF(cps, poly, init)`: steps 1 to 3 of R80. -/
def crcRef (cps : List Nat) (poly init : Word) : Word :=
  BitVec.ofNat 16 (wideAbsorbAll init.toNat poly.toNat cps % 2 ^ 16)

/-- Step 2b of R80, once, on a register truncated to `width` bits after every operation (R92). -/
def truncStep (width r poly : Nat) : Nat :=
  if r.testBit 15 then (((r <<< 1) % 2 ^ width) ^^^ poly) % 2 ^ width else (r <<< 1) % 2 ^ width

/-- `n` truncated passes of step 2b. -/
def truncSteps (width : Nat) : Nat → Nat → Nat → Nat
  | 0, r, _ => r
  | n + 1, r, poly => truncSteps width n (truncStep width r poly) poly

/-- Steps 2a and 2b for one character, truncated after every operation. -/
def truncAbsorb (width r poly c : Nat) : Nat :=
  truncSteps width 8 ((r ^^^ ((c <<< 8) % 2 ^ width)) % 2 ^ width) poly

/-- Step 2 for all characters, truncated after every operation. -/
def truncAbsorbAll (width r poly : Nat) : List Nat → Nat
  | [] => r
  | c :: cs => truncAbsorbAll width (truncAbsorb width r poly c) poly cs

/-- `CRC_REF` with a register of `width` bits (R92). -/
def crcRefTrunc (width : Nat) (cps : List Nat) (poly init : Word) : Word :=
  BitVec.ofNat 16 (truncAbsorbAll width init.toNat poly.toNat cps % 2 ^ 16)

end Sys2Proof.Machine
end

