-- ==== Sys2Proof/Safety.lean ====
section
/-! DEFINITION. The terms claims use: what a port state is like, what a host's duty is, and what a
schedule of clock edges accepts. -/

namespace Sys2Proof.Machine

/-- The words of R67, from its own text: an opcode that is no command's, or a must-be-zero bit of the
opcode's format set. `decode` is not used. -/
def illegalWord (w : CmdWord) : Bool :=
  let op := w >>> 28
  op == 0x0#32 || 0x8#32 ≤ op
    || ((op == 0x1#32 || op == 0x3#32 || op == 0x6#32 || op == 0x7#32)
      && w &&& 0x0FFFFFFF#32 != 0#32)
    || ((op == 0x4#32 || op == 0x5#32) && w &&& 0x0FFF0000#32 != 0#32)
    || (op == 0x2#32 && w &&& 0x0FE00000#32 != 0#32)

/-- The port is as the rules leave it: a raised response is there to be taken (20_memory.md R43), a
block that was never reset has answered nothing and accepted nothing (70_reset_and_hazards.md R170),
and a response with `err = 1` carries `0x0000` (R44). -/
def PortInv (s : State) : Prop :=
  (s.respRaised = true → s.pending ≠ []) ∧
  (s.resetDone = false → s.pending = [] ∧ s.offered = none) ∧
  (∀ r ∈ s.delivered ++ s.pending, r.err = true → r.data = 0x0000#16)

/-- The inputs are clock edges at which `rst` is 0. -/
def runningEdges : List HostInput → Bool
  | [] => true
  | .edge e :: rest => !e.rst && runningEdges rest
  | .clockStopped :: _ => false
  | .powerCycled :: _ => false

/-- The words accepted at the edges of a schedule, in order (20_memory.md R42, R45). -/
def acceptedWords : List HostInput → List CmdWord
  | [] => []
  | .edge e :: rest => if e.accepts then e.cmdWord :: acceptedWords rest else acceptedWords rest
  | .clockStopped :: rest => acceptedWords rest
  | .powerCycled :: rest => acceptedWords rest

/-- The host's duty along edges at which `rst` is 0 (20_memory.md R42): a word it has presented stays
on the port, unchanged, until it is accepted. `held` is the word it must present next, if any. -/
def dutyKept : Option CmdWord → List HostInput → Bool
  | _, [] => true
  | held, .edge e :: rest =>
    (held.isNone || e.presented == held)
      && dutyKept (if e.accepts then none else e.presented) rest
  | held, .clockStopped :: rest => dutyKept held rest
  | _, .powerCycled :: rest => dutyKept none rest

/-- The host takes no response at any of these edges. -/
def neverTakes : List HostInput → Bool
  | [] => true
  | .edge e :: rest => !e.respReady && neverTakes rest
  | .clockStopped :: rest => neverTakes rest
  | .powerCycled :: rest => neverTakes rest

/-- An edge at which the host presents `w`, the block is not ready, and the host takes nothing. -/
def stallEdge (w : CmdWord) : Edge where
  rst := false
  cmdValid := true
  cmdWord := w
  respReady := false
  readyChoice := false
  raiseChoice := true

end Sys2Proof.Machine
end

