-- ==== Sys2Proof/Certificates/Slice0/Obligations.lean ====
section
/-! DEFINITION. The statements for the provers. Each docstring names the rule of spec/ it formalises,
or says that it rests on a choice of the model and names the log entry. -/

open Sys2Proof Sys2Proof.Machine

/-! ### Encoding (30_encoding.md) -/

/-- R69, R72: decoding the encoding of a command gives that command, for all operands. -/
def Obligations.DecodeOfEncodeGivesTheCommand : Prop :=
  ∀ i : Instr, i.wellFormed = true → decode (encode i) = .command i

/-- R69: a word decodes to a command only if it is that command's encoding. -/
def Obligations.OnlyItsEncodingDecodesToACommand : Prop :=
  ∀ (w : CmdWord) (i : Instr), decode w = .command i → w = encode i

/-- R66: decoding agrees with the match and mask table, and no word fits two rows. -/
def Obligations.DecodeAgreesWithTheOpcodeMap : Prop :=
  (∀ (w : CmdWord) (m : String),
    (∃ i, decode w = .command i ∧ i.mnemonic = m) ↔
      (∃ r ∈ opcodeTable, r.mnemonic = m ∧ r.fits w = true)) ∧
  (∀ (w : CmdWord), ∀ r ∈ opcodeTable, ∀ r' ∈ opcodeTable,
    r.fits w = true → r'.fits w = true → r = r')

/-- R69: how many words decode to each command. -/
def Obligations.DecodeCountsOfWords : Prop :=
  Nat.card { w : CmdWord // ∃ cp, decode w = .command (.crcByte cp) } = 2 ^ 21 ∧
  Nat.card { w : CmdWord // ∃ v, decode w = .command (.polyWrite v) } = 2 ^ 16 ∧
  Nat.card { w : CmdWord // ∃ v, decode w = .command (.initWrite v) } = 2 ^ 16 ∧
  Nat.card { w : CmdWord // decode w = .command .crcInit } = 1 ∧
  Nat.card { w : CmdWord // decode w = .command .crcRead } = 1 ∧
  Nat.card { w : CmdWord // decode w = .command .polyRead } = 1 ∧
  Nat.card { w : CmdWord // decode w = .command .initRead } = 1

/-- R67: which words are illegal (`illegalWord`, written from the rule and not from `decode`), and
what an illegal word does. -/
def Obligations.IllegalWordsAndTheirEffect : Prop :=
  (∀ w : CmdWord, decode w = .illegal ↔ illegalWord w = true) ∧
  (∀ (w : CmdWord) (s : State), illegalWord w = true →
    performWord w s = .next { s with pending := s.pending ++ [⟨0x0000#16, true⟩] }) ∧
  illegalWord 0x00000000#32 = true

/-- R72: the encoding of each command as a number. -/
def Obligations.EncodingIsOpcodeThenOperand : Prop :=
  (∀ i : Instr, (encode i).toNat = i.opcode.toNat * 2 ^ 28 +
    (match i with
      | .crcByte cp => cp.toNat
      | .polyWrite val => val.toNat
      | .initWrite val => val.toNat
      | .crcInit | .crcRead | .polyRead | .initRead => 0)) ∧
  encode (.crcByte 0x31#21) = 0x20000031#32 ∧
  encode (.polyWrite 0x1021#16) = 0x40001021#32 ∧
  encode .crcRead = 0x30000000#32

/-- A few words of 95_test_vectors.md section 2, decoded. -/
def Obligations.SampleWordsDecode : Prop :=
  decode 0x10000000#32 = .command .crcInit ∧
  decode 0x200020AC#32 = .command (.crcByte 0x0020AC#21) ∧
  decode 0x201FFFFF#32 = .command (.crcByte 0x1FFFFF#21) ∧
  decode 0x30000000#32 = .command .crcRead ∧
  decode 0x40008005#32 = .command (.polyWrite 0x8005#16) ∧
  decode 0x50000000#32 = .command (.initWrite 0x0000#16) ∧
  decode 0x60000000#32 = .command .polyRead ∧
  decode 0x70000000#32 = .command .initRead ∧
  decode 0x20200000#32 = .illegal ∧
  decode 0x18000000#32 = .illegal

/-! ### The commands (40_crc_datapath.md, 41_config.md). A result is an equation with the whole next
state, so it says what is written and that nothing else is. -/

/-- R84. -/
def Obligations.CrcInitLoadsCrcFromInit : Prop :=
  encode .crcInit = 0x10000000#32 ∧
  (∀ s : State, exec .crcInit s =
    .next { s with crc := s.init, pending := s.pending ++ [⟨0x0000#16, false⟩] }) ∧
  (∀ w : CmdWord, opField w = 0x1#4 → w.extractLsb' 0 28 ≠ 0#28 → decode w = .illegal) ∧
  (∀ s t u : State, exec .crcInit s = .next t → exec .crcInit t = .next u → u.regs = t.regs) ∧
  (∀ t : State, exec .crcInit State.reset = .next t → t.crc = 0xFFFF#16)

/-- R85. -/
def Obligations.CrcByteAbsorbsTheLowByte : Prop :=
  (∀ cp : Cp, encode (.crcByte cp) = 0x20000000#32 ||| cp.setWidth 32) ∧
  (∀ (cp : Cp) (s : State), exec (.crcByte cp) s =
    .next { s with
      crc := absorb s.crc s.poly (cp.extractLsb' 0 8)
      pending := s.pending ++ [⟨0x0000#16, false⟩] }) ∧
  (∀ w : CmdWord, opField w = 0x2#4 → w.extractLsb' 21 7 ≠ 0#7 → decode w = .illegal) ∧
  (∀ (cp cp' : Cp) (s : State), cp.extractLsb' 0 8 = cp'.extractLsb' 0 8 →
    exec (.crcByte cp) s = exec (.crcByte cp') s) ∧
  (∀ p : Word, absorb 0x0000#16 p 0x00#8 = 0x0000#16) ∧
  absorb 0xFFFF#16 0x1021#16 0x00#8 = 0xE1F0#16 ∧
  (∀ (cp : Cp) (s t : State), s.poly = 0x0000#16 → exec (.crcByte cp) s = .next t →
    t.crc = s.crc.extractLsb' 0 8 ++ 0x00#8) ∧
  inject 0xFFFF#16 0x31#8 = 0xCEFF#16 ∧
  (List.range 8).map (fun n => bitSteps (n + 1) 0xCEFF#16 0x1021#16) =
    [0x8DDF#16, 0x0B9F#16, 0x173E#16, 0x2E7C#16, 0x5CF8#16, 0xB9F0#16, 0x63C1#16, 0xC782#16]

/-- R86. -/
def Obligations.CrcReadReturnsCrc : Prop :=
  encode .crcRead = 0x30000000#32 ∧
  (∀ s : State, exec .crcRead s = .next { s with pending := s.pending ++ [⟨s.crc, false⟩] }) ∧
  (∀ w : CmdWord, opField w = 0x3#4 → w.extractLsb' 0 28 ≠ 0#28 → decode w = .illegal) ∧
  (∀ s t u : State, exec .crcRead s = .next t → exec .crcRead t = .next u →
    u.pending = s.pending ++ [⟨s.crc, false⟩, ⟨s.crc, false⟩]) ∧
  (∀ (cps : List Cp) (s : State), ∃ t,
    performWords (cps.map (fun c => encode (.crcByte c)) ++ [encode .crcRead]) s = .next t ∧
      t.pending.getLast? = some ⟨absorbAll s.crc s.poly (cps.map (·.extractLsb' 0 8)), false⟩)

/-- R110. -/
def Obligations.PolyWriteSetsPoly : Prop :=
  (∀ val : Word, encode (.polyWrite val) = 0x40000000#32 ||| val.setWidth 32) ∧
  (∀ (val : Word) (s : State), exec (.polyWrite val) s =
    .next { s with poly := val, pending := s.pending ++ [⟨0x0000#16, false⟩] }) ∧
  (∀ w : CmdWord, opField w = 0x4#4 → w.extractLsb' 16 12 ≠ 0#12 → decode w = .illegal) ∧
  (∀ (val : Word) (cp : Cp) (s t u : State),
    exec (.polyWrite val) s = .next t → exec (.crcByte cp) t = .next u →
      u.crc = absorb s.crc val (cp.extractLsb' 0 8)) ∧
  (∀ (cp : Cp) (s t u : State),
    exec (.polyWrite 0x0000#16) s = .next t → exec (.crcByte cp) t = .next u →
      u.crc = s.crc.extractLsb' 0 8 ++ 0x00#8)

/-- R111. -/
def Obligations.InitWriteSetsInit : Prop :=
  (∀ val : Word, encode (.initWrite val) = 0x50000000#32 ||| val.setWidth 32) ∧
  (∀ (val : Word) (s : State), exec (.initWrite val) s =
    .next { s with init := val, pending := s.pending ++ [⟨0x0000#16, false⟩] }) ∧
  (∀ w : CmdWord, opField w = 0x5#4 → w.extractLsb' 16 12 ≠ 0#12 → decode w = .illegal) ∧
  (∀ (val : Word) (s t u : State),
    exec (.initWrite val) s = .next t → exec .crcInit t = .next u → u.crc = val) ∧
  (∀ (val : Word) (cps : List Cp) (s : State), ∃ t,
    performWords (encode (.initWrite val) :: cps.map (fun c => encode (.crcByte c))) s = .next t ∧
      t.crc = absorbAll s.crc s.poly (cps.map (·.extractLsb' 0 8)))

/-- R112. -/
def Obligations.PolyReadReturnsPoly : Prop :=
  encode .polyRead = 0x60000000#32 ∧
  (∀ s : State, exec .polyRead s = .next { s with pending := s.pending ++ [⟨s.poly, false⟩] }) ∧
  (∀ w : CmdWord, opField w = 0x6#4 → w.extractLsb' 0 28 ≠ 0#28 → decode w = .illegal) ∧
  (∀ t : State, exec .polyRead State.reset = .next t → t.pending = [⟨0x1021#16, false⟩])

/-- R113. -/
def Obligations.InitReadReturnsInit : Prop :=
  encode .initRead = 0x70000000#32 ∧
  (∀ s : State, exec .initRead s = .next { s with pending := s.pending ++ [⟨s.init, false⟩] }) ∧
  (∀ w : CmdWord, opField w = 0x7#4 → w.extractLsb' 0 28 ≠ 0#28 → decode w = .illegal) ∧
  (∀ t : State, exec .initRead State.reset = .next t → t.pending = [⟨0xFFFF#16, false⟩])

/-- 10_state.md section 1, the table's access column: CRC is written by CRC_INIT and CRC_BYTE only,
POLY by POLY_WRITE only, INIT by INIT_WRITE only; every command completes, and leaves what waits on
the port, what the host has and what is still to come. -/
def Obligations.CommandFrame : Prop :=
  ∀ (i : Instr) (s : State), ∃ t, exec i s = .next t ∧
    ((∀ cp, i ≠ .crcByte cp) → i ≠ .crcInit → t.crc = s.crc) ∧
    ((∀ v, i ≠ .polyWrite v) → t.poly = s.poly) ∧
    ((∀ v, i ≠ .initWrite v) → t.init = s.init) ∧
    (∃ r, t.pending = s.pending ++ [r]) ∧
    t.resetDone = s.resetDone ∧ t.respRaised = s.respRaised ∧ t.offered = s.offered ∧
    t.inputs = s.inputs ∧ t.delivered = s.delivered ∧ t.draws = s.draws

/-- R44, R150: the response of every command, legal or illegal; no legal command raises an error,
whatever its operand and the registers. -/
def Obligations.ResponseOfEveryCommand : Prop :=
  (∀ (i : Instr) (s : State), ∃ t, performWord (encode i) s = .next t ∧
    t.pending = s.pending ++ [
      { data := (match i with
          | .crcRead => s.crc
          | .polyRead => s.poly
          | .initRead => s.init
          | .crcInit | .crcByte _ | .polyWrite _ | .initWrite _ => 0x0000#16)
        err := false }]) ∧
  (∀ (w : CmdWord) (s : State), illegalWord w = true → ∃ t, performWord w s = .next t ∧
    t.pending = s.pending ++ [⟨0x0000#16, true⟩])

/-- R151: IllegalCommand writes no register and answers `(0x0000, 1)`; no legal command answers
with `err = 1`, so it is the only error. -/
def Obligations.IllegalCommandAnswersErrAndWritesNothing : Prop :=
  (∀ (w : CmdWord) (s : State), decode w = .illegal → performWord w s =
    .next { s with pending := s.pending ++ [⟨0x0000#16, true⟩] }) ∧
  (∀ (w : CmdWord) (s t : State) (r : Response), performWord w s = .next t →
    t.pending = s.pending ++ [r] → (r.err = true ↔ decode w = .illegal))

/-- R152: the command after an illegal word does what it would have done without it. -/
def Obligations.IllegalCommandIsNotSticky : Prop :=
  ∀ (w w' : CmdWord) (s : State), illegalWord w = true →
    ∃ t u r, performWord w' s = .next t ∧ performWords [w, w'] s = .next u ∧
      t.pending = s.pending ++ [r] ∧
      u = { t with pending := s.pending ++ [⟨0x0000#16, true⟩, r] }

/-- 20_memory.md section 4 (R51 but for its clause on CRC_BYTE, which is read as log 14 says): the
reads change no register and repeat; the writes are idempotent; CRC_BYTE is not. -/
def Obligations.ReadsRepeatWritesAreIdempotent : Prop :=
  (∀ i : Instr, i = .crcRead ∨ i = .polyRead ∨ i = .initRead → ∀ s : State, ∃ t u r,
    performWords [encode i] s = .next t ∧ performWords [encode i, encode i] s = .next u ∧
      t.regs = s.regs ∧ u.regs = s.regs ∧ u.pending = s.pending ++ [r, r]) ∧
  (∀ (i : Instr) (v : Word), i = .polyWrite v ∨ i = .initWrite v ∨ i = .crcInit → ∀ s : State,
    ∃ t u, performWords [encode i] s = .next t ∧
      performWords [encode i, encode i] s = .next u ∧ u.regs = t.regs) ∧
  (∃ (s t u : State) (cp : Cp), performWords [encode (.crcByte cp)] s = .next t ∧
    performWords [encode (.crcByte cp), encode (.crcByte cp)] s = .next u ∧ u.regs ≠ t.regs)

/-- R25: a value written to POLY or INIT is returned unchanged, whatever else happens between, short
of another write. -/
def Obligations.ConfigurationReadsBackWhatWasWritten : Prop :=
  (∀ (v : Word) (ws : List CmdWord) (s : State),
    (∀ w ∈ ws, ∀ x, decode w ≠ .command (.polyWrite x)) →
      ∃ t, performWords (encode (.polyWrite v) :: (ws ++ [encode .polyRead])) s = .next t ∧
        t.poly = v ∧ t.pending.getLast? = some ⟨v, false⟩) ∧
  (∀ (v : Word) (ws : List CmdWord) (s : State),
    (∀ w ∈ ws, ∀ x, decode w ≠ .command (.initWrite x)) →
      ∃ t, performWords (encode (.initWrite v) :: (ws ++ [encode .initRead])) s = .next t ∧
        t.init = v ∧ t.pending.getLast? = some ⟨v, false⟩)

/-- 41_config.md R114: an INIT_WRITE in the middle of a computation does not change it, until a
CRC_INIT. -/
def Obligations.InitWriteLeavesARunningComputation : Prop :=
  ∀ (v : Word) (before after : List CmdWord) (s : State),
    (∀ w ∈ after, decode w ≠ .command .crcInit) →
      ∃ t u, performWords (before ++ after) s = .next t ∧
        performWords (before ++ encode (.initWrite v) :: after) s = .next u ∧
        u.crc = t.crc ∧ u.poly = t.poly

/-! ### The datapath (40_crc_datapath.md) -/

/-- R81. -/
def Obligations.InjectXorsTheHighByte : Prop :=
  ∀ (r : Word) (b : Byte),
    inject r b = r ^^^ (b ++ 0x00#8) ∧
    (inject r b).extractLsb' 8 8 = r.extractLsb' 8 8 ^^^ b ∧
    (inject r b).extractLsb' 0 8 = r.extractLsb' 0 8

/-- R82, bit by bit; and the order of shift and XOR matters. -/
def Obligations.StepOneBitByBit : Prop :=
  (∀ (r p : Word) (i : Nat), i < 16 →
    (step1 r p).getLsbD i =
      ((decide (0 < i) && r.getLsbD (i - 1)) ^^ (r.getLsbD 15 && p.getLsbD i))) ∧
  (∃ r p : Word, r.getLsbD 15 = true ∧ step1 r p ≠ (r ^^^ p) <<< 1)

/-- R83. -/
def Obligations.AbsorbIsOneInjectAndEightSteps : Prop :=
  ∀ (r p : Word) (b : Byte), absorb r p b = (fun t => step1 t p)^[8] (inject r b)

/-- R92: the source's algorithm on unbounded integers, the same truncated to any width of at least 16
bits, and the 16-bit datapath give one result. -/
def Obligations.WideAlgorithmEqualsDatapath : Prop :=
  ∀ (cps : List Nat) (poly init : Word),
    crcRef cps poly init = absorbAll init poly (cps.map (BitVec.ofNat 8)) ∧
    ∀ width : Nat, 16 ≤ width → crcRefTrunc width cps poly init = crcRef cps poly init

/-- R91: the bits of a code point above bit 7 do not reach bits 15 to 0. -/
def Obligations.HighCodePointBitsHaveNoEffect : Prop :=
  (∀ r p c : Nat, wideAbsorb r p c % 2 ^ 16 = wideAbsorb r p (c &&& 0xFF) % 2 ^ 16) ∧
  (∀ (cps : List Nat) (poly init : Word),
    crcRef cps poly init = crcRef (cps.map (· &&& 0xFF)) poly init)

/-- R94. -/
def Obligations.AbsorbIsLinear : Prop :=
  (∀ r1 r2 p : Word, step1 (r1 ^^^ r2) p = step1 r1 p ^^^ step1 r2 p) ∧
  (∀ (p r1 r2 : Word) (b1 b2 : Byte),
    absorb (r1 ^^^ r2) p (b1 ^^^ b2) = absorb r1 p b1 ^^^ absorb r2 p b2) ∧
  (∀ (p r : Word) (b : Byte), absorb r p b = absorb r p 0x00#8 ^^^ absorb 0x0000#16 p b)

/-- R95. -/
def Obligations.ZeroRegisterAndZeroCharactersGiveZero : Prop :=
  (∀ p : Word, absorb 0x0000#16 p 0x00#8 = 0x0000#16) ∧
  (∀ (n : Nat) (p : Word), crcRef (List.replicate n 0) p 0x0000#16 = 0x0000#16)

/-- R96. -/
def Obligations.ZeroPolynomialShiftsTheByteOut : Prop :=
  ∀ (r : Word) (b : Byte), absorb r 0x0000#16 b = r.extractLsb' 0 8 ++ 0x00#8

/-- R97. -/
def Obligations.ResidueIsZero : Prop :=
  ∀ p v : Word,
    absorb (absorb v p (v.extractLsb' 8 8)) p (v.extractLsb' 0 8) = 0x0000#16

/-- R98, on the machine: the register after `a` and then `b` is the register `b` gives from the one
after `a`, and a CRC_READ after `a` returns the checksum of `a`. -/
def Obligations.PrefixProperty : Prop :=
  (∀ (a b : List Cp) (s : State), ∃ t u,
    performWords (a.map (fun c => encode (.crcByte c))) s = .next t ∧
    performWords (b.map (fun c => encode (.crcByte c))) t = .next u ∧
    performWords ((a ++ b).map (fun c => encode (.crcByte c))) s = .next u ∧
    u.crc = absorbAll t.crc s.poly (b.map (·.extractLsb' 0 8))) ∧
  (∀ (a : List Cp) (s : State), ∃ t,
    performWords (encode .crcInit :: (a.map (fun c => encode (.crcByte c)) ++ [encode .crcRead])) s
      = .next t ∧
    t.pending.getLast? = some ⟨crcRef (a.map BitVec.toNat) s.poly s.init, false⟩)

/-- R99. -/
def Obligations.StepOneIsABijectionForOddPolynomials : Prop :=
  (∀ p : Word, Function.Bijective (fun r => step1 r p) ↔ p.getLsbD 0 = true) ∧
  (∀ p r : Word, p.getLsbD 0 = true → unstep1 (step1 r p) p = r ∧ step1 (unstep1 r p) p = r) ∧
  (∀ p : Word, p.getLsbD 0 = false →
    Set.range (fun r => step1 r p) = { v : Word | v.getLsbD 0 = false } ∧
    Nat.card (Set.range (fun r => step1 r p)) = 2 ^ 15) ∧
  (∀ b : Byte, Function.Bijective (fun r => absorb r 0x1021#16 b))

/-- R100. -/
def Obligations.SerialFormEqualsAbsorb : Prop :=
  ∀ (r p : Word) (b : Byte), absorbSerial r p b = absorb r p b

/-! ### The step and the port (20_memory.md, 70_reset_and_hazards.md) -/

/-- 20_memory.md sections 2 and 3 (R42, R45): where the word accepted at the next edge decodes to a
command, the step is that command on the state whose response side has moved. That the response side
moves before the command, so that a response is never delivered at its own acceptance edge, is the
model's choice (log 4). Legal words only: HandshakeRefinesTheAbstractSequence covers the illegal ones. -/
def Obligations.StepPerformsTheDecodedCommand : Prop :=
  ∀ (s : State) (e : Edge) (rest : List HostInput) (i : Instr),
    s.inputs = .edge e :: rest → e.rst = false → s.resetDone = true → s.offerHeld e = true →
    e.cmdValid = true → e.readyChoice = true → decode e.cmdWord = .command i →
      step s = exec i { ({ s with inputs := rest } : State).responseSide e with offered := none }

/-- The same for a word placed with `withFetchWord` (log 2), in every state that has had a reset; the
command's own response is not raised at this edge (the model's choice, log 4). -/
def Obligations.StepPerformsThePlacedWord : Prop :=
  ∀ (s : State) (w : CmdWord) (i : Instr), s.resetDone = true → decode w = .command i →
    ∃ t, step (s.withFetchWord 32 w.toNat) = .next t ∧
      exec i { s with offered := none, respRaised := !s.pending.isEmpty && s.respRaised } = .next t

/-- 20_memory.md section 2 (R42) and 60_exceptions.md section 4 (R162): where no command is accepted
the registers hold, no response is lost, and a word presented is remembered; with no input at all
nothing changes (log 10). -/
def Obligations.NothingAcceptedKeepsTheRegisters : Prop :=
  (∀ (s : State) (e : Edge) (rest : List HostInput),
    s.inputs = .edge e :: rest → e.rst = false → s.resetDone = true → s.offerHeld e = true →
    (e.cmdValid && e.readyChoice) = false →
      ∃ t, step s = .next t ∧ t.regs = s.regs ∧ t.inputs = rest ∧
        t.delivered ++ t.pending = s.delivered ++ s.pending ∧
        t.offered = (if e.cmdValid then some e.cmdWord else none)) ∧
  (∀ s : State, s.inputs = [] → step s = .next s)

/-- The model's choice (log 5): R42 leaves open which word a host that changes its offer has accepted,
and such an edge is refused. -/
def Obligations.ChangedOfferIsRefused : Prop :=
  ∀ (s : State) (e : Edge) (rest : List HostInput) (w : CmdWord),
    s.inputs = .edge e :: rest → e.rst = false → s.resetDone = true → s.offered = some w →
    (e.cmdValid = false ∨ e.cmdWord ≠ w) → step s = .refused .offerNotHeld

/-- 20_memory.md section 2 (R43), with the model's choices of log 3 and 4: one response for each
accepted command, in order; a response stays on the port, unchanged, from the edge that raises it
until it is taken; it is delivered where it is on the port and taken, and nothing is delivered where
none is on the port; and nothing ties acceptance to the number of responses that wait. That a block
may be not ready at any edge, where R43 names those at which a response waits, is the model's choice
(log 3); so is the port as it stands before the command of the edge (log 4). -/
def Obligations.ResponsesAreQueuedAndHeld : Prop :=
  (∀ (s t : State) (e : Edge) (rest : List HostInput),
    s.inputs = .edge e :: rest → e.rst = false → s.resetDone = true → step s = .next t →
      t.delivered ++ t.pending = s.delivered ++ s.pending ++
        (if e.accepts then [(abstractExec s.regs e.cmdWord).2] else [])) ∧
  (∀ (s t : State) (e e' : Edge) (rest : List HostInput) (r : Response) (rs : List Response),
    s.inputs = .edge e :: rest → e.rst = false → s.resetDone = true → step s = .next t →
    s.pending = r :: rs → (s.respRaised = true ∨ e.raiseChoice = true) → e.respReady = false →
    e'.rst = false →
      s.respPins e = some r ∧ t.delivered = s.delivered ∧ t.respPins e' = some r) ∧
  (∀ (s t : State) (e : Edge) (rest : List HostInput) (r : Response) (rs : List Response),
    s.inputs = .edge e :: rest → e.rst = false → s.resetDone = true → step s = .next t →
    s.pending = r :: rs → (s.respRaised = true ∨ e.raiseChoice = true) → e.respReady = true →
      s.respPins e = some r ∧ t.delivered = s.delivered ++ [r]) ∧
  (∀ (s t : State) (e : Edge) (rest : List HostInput),
    s.inputs = .edge e :: rest → e.rst = false → s.resetDone = true → step s = .next t →
    s.respValid e = false → t.delivered = s.delivered) ∧
  (∀ e : Edge, e.readyChoice = false → e.accepts = false) ∧
  (∀ (s : State) (w : CmdWord), s.resetDone = true → s.offered = none →
    ∃ t, step { s with inputs := [.edge (sendEdge w)] } = .next t ∧
      t.pending.length = s.pending.length + 1)

/-- R45: with the handshake left out, the block is the function `exec` of R45 applied to the accepted
words in order, whatever the implementation's choices and the host's pace. -/
def Obligations.HandshakeRefinesTheAbstractSequence : Prop :=
  State.reset.regs = resetRegs ∧
  ∀ (ins rest : List HostInput) (s t : State),
    runningEdges ins = true → s.resetDone = true → s.inputs = ins ++ rest →
    Sys2Proof.core.run ins.length s = .next t →
      t.regs = (abstractRun s.regs (acceptedWords ins)).1 ∧
      t.delivered ++ t.pending =
        s.delivered ++ s.pending ++ (abstractRun s.regs (acceptedWords ins)).2 ∧
      t.inputs = rest ∧ t.resetDone = true

/-- 20_memory.md section 2 (R42) and 70_reset_and_hazards.md section 1 (R174), with the refusals of
log 5 and 6: a block that was reset never turns away a host that keeps its duty. -/
def Obligations.DutifulHostIsNeverRefused : Prop :=
  ∀ (ins rest : List HostInput) (s : State),
    runningEdges ins = true → s.resetDone = true → s.inputs = ins ++ rest →
    dutyKept s.offered ins = true → ∃ t, Sys2Proof.core.run ins.length s = .next t

/-- 20_memory.md section 2 (R43, R44), and the empty port of a block that was never reset (the model's
choice, log 6 and 7): every step keeps the port's invariant. -/
def Obligations.EveryStepKeepsThePortInvariant : Prop :=
  ∀ s t : State, PortInv s → step s = .next t → PortInv t

/-- The port's invariant holds after reset. -/
def Obligations.ResetMeetsThePortInvariant : Prop := PortInv State.reset

/-- R171. -/
def Obligations.ResetEdgeSetsTheRegisters : Prop :=
  (∀ (s : State) (e : Edge) (rest : List HostInput),
    s.inputs = .edge e :: rest → e.rst = true →
      e.cmdReady = false ∧ s.respValid e = false ∧ e.accepts = false ∧
      ∃ t, step s = .next t ∧ t.crc = 0xFFFF#16 ∧ t.poly = 0x1021#16 ∧ t.init = 0xFFFF#16 ∧
        t.delivered = s.delivered ∧ t.inputs = rest) ∧
  (∀ (s : State) (e : Edge) (w : CmdWord) (rest : List HostInput),
    s.inputs = .edge e :: .edge (sendEdge w) :: rest → e.rst = true →
    (e.cmdValid = true → e.cmdWord = w) →
      ∃ t u, step s = .next t ∧ step t = .next u ∧
        u.regs = (abstractExec resetRegs w).1 ∧ u.pending = [(abstractExec resetRegs w).2]) ∧
  State.reset.regs = resetRegs

/-- R172: after a reset edge nothing is left of what was in flight: two blocks that differ in their
registers and their ports are then the same, with the values of R171, and no waiting response was
delivered. -/
def Obligations.ResetDiscardsWorkInProgress : Prop :=
  ∀ (s s' : State) (e : Edge) (rest : List HostInput),
    s.inputs = .edge e :: rest → s'.inputs = .edge e :: rest → e.rst = true →
    s'.delivered = s.delivered → s'.draws = s.draws →
      ∃ t, step s = .next t ∧ step s' = .next t ∧ t.regs = resetRegs ∧ t.pending = [] ∧
        t.delivered = s.delivered

/-- 70_reset_and_hazards.md section 1 (R170), with log 6 and 7: a command before the first reset is
refused, and power-on leaves free values in the registers. That the port is empty after power-on (no
response pending) is the model's choice (log 7): R170 leaves the state of the port unspecified. -/
def Obligations.NoCommandBeforeTheFirstReset : Prop :=
  (∀ (s : State) (e : Edge) (rest : List HostInput),
    s.inputs = .edge e :: rest → e.rst = false → s.resetDone = false → e.cmdValid = true →
      step s = .refused .portUsedBeforeReset) ∧
  (∀ (s : State) (rest : List HostInput), s.inputs = .powerCycled :: rest →
    ∃ t, step s = .next t ∧ t.resetDone = false ∧ t.pending = [] ∧ t.inputs = rest ∧
      t.regs = ⟨Config.unknownRegister s.draws, Config.unknownRegister (s.draws + 1),
        Config.unknownRegister (s.draws + 2)⟩)

/-- The model's choice (log 8): a stopped clock leaves free values in the registers (R162 does not say
whether they survive) and nothing else changes. -/
def Obligations.StoppedClockLeavesFreeRegisters : Prop :=
  ∀ (s : State) (rest : List HostInput), s.inputs = .clockStopped :: rest →
    step s = .next { s with
      inputs := rest
      crc := Config.unknownRegister s.draws
      poly := Config.unknownRegister (s.draws + 1)
      init := Config.unknownRegister (s.draws + 2)
      draws := s.draws + 3 }

/-- R175. -/
def Obligations.ReadAfterResetGivesTheEmptyChecksum : Prop :=
  (∃ t, performWords [0x30000000#32] State.reset = .next t ∧
    t.pending = [⟨0xFFFF#16, false⟩]) ∧
  (∃ t, performWords [0x10000000#32, 0x30000000#32] State.reset = .next t ∧
    t.pending = [⟨0x0000#16, false⟩, ⟨0xFFFF#16, false⟩]) ∧
  calculateCRC .codePoint [] 0x1021#16 0xFFFF#16 resetRegs = some ['F', 'F', 'F', 'F']

/-- 70_reset_and_hazards.md section 2 (R178): a host that never takes a response gets none, and it can
be kept waiting for any number of edges, the block's readiness being left open (log 3, 16); it is then
stuck and not faulted. -/
def Obligations.HostThatTakesNothingMayStall : Prop :=
  (∀ (ins rest : List HostInput) (s t : State),
    runningEdges ins = true → neverTakes ins = true → s.resetDone = true →
    s.inputs = ins ++ rest → Sys2Proof.core.run ins.length s = .next t →
      t.delivered = s.delivered) ∧
  (∀ (n : Nat) (w : CmdWord) (s : State) (rest : List HostInput),
    s.resetDone = true → (s.offered = none ∨ s.offered = some w) →
    s.inputs = List.replicate n (.edge (stallEdge w)) ++ rest →
      ∃ t, Sys2Proof.core.run n s = .next t ∧ t.regs = s.regs ∧ t.pending = s.pending ∧
        t.delivered = s.delivered)

/-! ### The host (42_host_sequence.md) and the assembler (30_encoding.md section 5) -/

/-- R130: whenever the words accepted along a schedule are the sequence of calculateCRC, the responses
are those of a legal sequence and the last one's text is FORMAT of the source's checksum, whatever the
state before, the host's pace and the implementation's choices. -/
def Obligations.CalculateCrcGivesTheSourceChecksum : Prop :=
  ∀ (seg : Segmentation) (payload : Text) (poly init : Word) (ins rest : List HostInput)
    (s t : State),
    runningEdges ins = true → s.resetDone = true → s.inputs = ins ++ rest →
    acceptedWords ins = calculateWords seg payload poly init →
    Sys2Proof.core.run ins.length s = .next t →
      ∃ resps, t.delivered ++ t.pending = s.delivered ++ s.pending ++ resps ∧
        resps = List.replicate ((chars seg payload).length + 3) ⟨0x0000#16, false⟩ ++
          [⟨crcRef ((chars seg payload).map BitVec.toNat) poly init, false⟩] ∧
        resultText resps =
          some (formatText (crcRef ((chars seg payload).map BitVec.toNat) poly init))

/-- R130: the words of the sequence, its result on the abstract semantics of R45, and the two defaults
(00_scope.md R4). -/
def Obligations.CalculateCrcSequenceAndDefaults : Prop :=
  (∀ (seg : Segmentation) (payload : Text) (poly init : Word),
    calculateWords seg payload poly init =
      [0x40000000#32 ||| poly.setWidth 32, 0x50000000#32 ||| init.setWidth 32, 0x10000000#32] ++
        (chars seg payload).map (fun c => 0x20000000#32 ||| c.setWidth 32) ++ [0x30000000#32]) ∧
  (∀ (seg : Segmentation) (payload : Text) (poly init : Word) (r : Regs),
    (∀ resp ∈ (abstractRun r (calculateWords seg payload poly init)).2, resp.err = false) ∧
    calculateCRC seg payload poly init r =
      some (formatText (crcRef ((chars seg payload).map BitVec.toNat) poly init))) ∧
  (∀ (seg : Segmentation) (payload : Text) (r : Regs),
    calculateWords seg payload = calculateWords seg payload 0x1021#16 0xFFFF#16 ∧
    calculateCRC seg payload (r := r) = calculateCRC seg payload 0x1021#16 0xFFFF#16 r)

/-- 42_host_sequence.md section 1 (R130), for the host of log 20 (the model's choice of a pace): sent
to a block that was reset and whose port is idle, the sequence runs to its end and every response is
delivered. -/
def Obligations.CalculateCrcCompletesForOneHost : Prop :=
  ∀ (seg : Segmentation) (payload : Text) (poly init : Word) (s : State),
    s.resetDone = true → s.offered = none → s.pending = [] →
    s.inputs = sendAll (calculateWords seg payload poly init) →
      ∃ t resps, Sys2Proof.core.run s.inputs.length s = .next t ∧
        t.delivered = s.delivered ++ resps ∧ t.pending = [] ∧ t.inputs = [] ∧
        resultText resps =
          some (formatText (crcRef ((chars seg payload).map BitVec.toNat) poly init))

/-- R131, R132: FORMAT writes the four digits, most significant first, and every result of
calculateCRC is four characters from that set. -/
def Obligations.FormatIsFourUppercaseHexDigits : Prop :=
  (∀ v : Word, (formatText v).map some =
    [['0', '1', '2', '3', '4', '5', '6', '7', '8', '9', 'A', 'B', 'C', 'D', 'E', 'F'][
        (v.extractLsb' 12 4).toNat]?,
      ['0', '1', '2', '3', '4', '5', '6', '7', '8', '9', 'A', 'B', 'C', 'D', 'E', 'F'][
        (v.extractLsb' 8 4).toNat]?,
      ['0', '1', '2', '3', '4', '5', '6', '7', '8', '9', 'A', 'B', 'C', 'D', 'E', 'F'][
        (v.extractLsb' 4 4).toNat]?,
      ['0', '1', '2', '3', '4', '5', '6', '7', '8', '9', 'A', 'B', 'C', 'D', 'E', 'F'][
        (v.extractLsb' 0 4).toNat]?]) ∧
  formatText 0x00A5#16 = ['0', '0', 'A', '5'] ∧
  (∀ (seg : Segmentation) (payload : Text) (poly init : Word) (r : Regs), ∃ text,
    calculateCRC seg payload poly init r = some text ∧ text.length = 4 ∧
      ∀ c ∈ text, ('0' ≤ c ∧ c ≤ '9') ∨ ('A' ≤ c ∧ c ≤ 'F'))

/-- R133: the result does not depend on the registers before the sequence, and twice in a row gives
it twice. -/
def Obligations.ResultDoesNotDependOnThePriorState : Prop :=
  (∀ (seg : Segmentation) (payload : Text) (poly init : Word) (r r' : Regs),
    calculateCRC seg payload poly init r = calculateCRC seg payload poly init r') ∧
  (∀ (seg : Segmentation) (payload : Text) (poly init : Word) (r : Regs),
    (abstractRun r (calculateWords seg payload poly init ++
      calculateWords seg payload poly init)).2 =
      (abstractRun r (calculateWords seg payload poly init)).2 ++
        (abstractRun r (calculateWords seg payload poly init)).2)

/-- R134: no command of the sequence is illegal, no response is an error, and the host's characters
pass through the 21-bit field unchanged. -/
def Obligations.SequenceOfCalculateCrcIsLegal : Prop :=
  (∀ (seg : Segmentation) (payload : Text) (poly init : Word),
    ∀ w ∈ calculateWords seg payload poly init, illegalWord w = false) ∧
  (∀ (seg : Segmentation) (payload : Text) (poly init : Word) (r : Regs),
    ∀ resp ∈ (abstractRun r (calculateWords seg payload poly init)).2, resp.err = false) ∧
  (∀ c : CodePoint, (BitVec.ofNat 21 c.val).toNat = c.val)

/-- 42_host_sequence.md section 2 (R135), with the UTF-16 formula of log 12: one character per code
point, or one per UTF-16 unit; the two agree on every payload at or below U+FFFF. -/
def Obligations.SegmentationsAgreeUpToFFFF : Prop :=
  (∀ payload : Text, (chars .codePoint payload).map BitVec.toNat = payload.map Fin.val) ∧
  (∀ payload : Text, (∀ c ∈ payload, c.val ≤ 0xFFFF) →
    chars .utf16Unit payload = chars .codePoint payload) ∧
  (∀ c : CodePoint, 0xFFFF < c.val → ∃ hi lo : Cp, chars .utf16Unit [c] = [hi, lo] ∧
    0xD800 ≤ hi.toNat ∧ hi.toNat ≤ 0xDBFF ∧ 0xDC00 ≤ lo.toNat ∧ lo.toNat ≤ 0xDFFF ∧
    c.val = 0x10000 + (hi.toNat - 0xD800) * 0x400 + (lo.toNat - 0xDC00)) ∧
  chars .utf16Unit [0x1F600] = [0xD83D#21, 0xDE00#21]

/-- R137: for an odd polynomial the result is a bijection of the initial value; for an even one two
initial values may collide. -/
def Obligations.InitialValueToResultIsABijection : Prop :=
  (∀ (seg : Segmentation) (payload : Text) (poly : Word), poly.getLsbD 0 = true →
    Function.Bijective
      (fun init => crcRef ((chars seg payload).map BitVec.toNat) poly init) ∧
    ∀ (init init' : Word) (r : Regs),
      calculateCRC seg payload poly init r = calculateCRC seg payload poly init' r →
        init = init') ∧
  (∃ (seg : Segmentation) (payload : Text) (poly init init' : Word) (r : Regs),
    poly.getLsbD 0 = false ∧ init ≠ init' ∧
      calculateCRC seg payload poly init r = calculateCRC seg payload poly init' r)

/-- R93, R138: the empty payload gives the initial value, for every polynomial. -/
def Obligations.EmptyPayloadGivesTheInitialValue : Prop :=
  (∀ s : State, ∃ t, performWords [encode .crcInit, encode .crcRead] s = .next t ∧
    t.pending = s.pending ++ [⟨0x0000#16, false⟩, ⟨s.init, false⟩]) ∧
  (∀ (seg : Segmentation) (poly init : Word) (r : Regs),
    calculateCRC seg [] poly init r = some (formatText init))

/-- R71, on statements as the assembler reads them. -/
def Obligations.PseudoCommandsExpand : Prop :=
  (∀ (seg : Segmentation) (poly init : Word),
    assemble seg (.crcStart (.number poly.toNat) (.number init.toNat)) =
      some [encode (.polyWrite poly), encode (.initWrite init), encode .crcInit]) ∧
  (∀ (seg : Segmentation) (text : Text), assemble seg (.crcStr text) =
    some ((chars seg text).map fun c => encode (.crcByte c))) ∧
  (∀ seg : Segmentation, assemble seg (.crcStr []) = some [])

/-- 30_encoding.md section 5 (R70): an operand that does not fit is refused; one that fits is taken. -/
def Obligations.AssemblerChecksOperands : Prop :=
  (∀ (seg : Segmentation) (n : Nat), assemble seg (.polyWrite (.number n)) =
    if n < 2 ^ 16 then some [0x40000000#32 ||| BitVec.ofNat 32 n] else none) ∧
  (∀ (seg : Segmentation) (n : Nat), assemble seg (.initWrite (.number n)) =
    if n < 2 ^ 16 then some [0x50000000#32 ||| BitVec.ofNat 32 n] else none) ∧
  (∀ (seg : Segmentation) (n : Nat), assemble seg (.crcByte (.number n)) =
    if n < 2 ^ 21 then some [0x20000000#32 ||| BitVec.ofNat 32 n] else none) ∧
  (∀ (seg : Segmentation) (c : CodePoint), assemble seg (.crcByte (.character c)) =
    some [0x20000000#32 ||| BitVec.ofNat 32 c.val]) ∧
  (∀ (seg : Segmentation) (c : CodePoint),
    assemble seg (.polyWrite (.character c)) = none ∧
    assemble seg (.initWrite (.character c)) = none)

/-- 30_encoding.md section 5 (R70, R72), with the lexical form of log 13: the text of a command
assembles to its word. -/
def Obligations.TextOfACommandAssemblesToItsWord : Prop :=
  ∀ (seg : Segmentation) (i : Instr), assembleLine seg (render i) = some [encode i]
end

