-- ==== Sys2Proof/Laws/Datapath.lean ====
section
/-! SUPPORT. The bit step by its two cases, and sequences of bit steps and bytes in parts. -/

namespace Sys2Proof.Machine

theorem step1_of_top_set (r p : Word) (h : r.getLsbD 15 = true) : step1 r p = (r <<< 1) ^^^ p := by
  unfold step1
  rw [if_pos h]

theorem step1_of_top_clear (r p : Word) (h : r.getLsbD 15 = false) : step1 r p = r <<< 1 := by
  unfold step1
  rw [if_neg (Bool.eq_false_iff.mp h)]

theorem bitSteps_succ (n : Nat) (r p : Word) : bitSteps (n + 1) r p = bitSteps n (step1 r p) p := rfl

theorem bitSteps_add (m n : Nat) : ∀ r p : Word, bitSteps (m + n) r p = bitSteps n (bitSteps m r p) p := by
  induction m with
  | zero => intro r p; rw [Nat.zero_add]; rfl
  | succ m ih => intro r p; rw [Nat.succ_add, bitSteps_succ, ih]; rfl

theorem absorb_eq (r p : Word) (b : Byte) : absorb r p b = bitSteps 8 (inject r b) p := rfl

theorem absorbAll_append (a b : List Byte) :
    ∀ r p : Word, absorbAll r p (a ++ b) = absorbAll (absorbAll r p a) p b := by
  induction a with
  | nil => intro r p; rfl
  | cons x a ih => intro r p; exact ih _ _

end Sys2Proof.Machine
end

