-- ==== Sys2Proof/Laws/State.lean ====
section
/-! SUPPORT. Each field after each update of the state, and reads after writes of registers. -/

namespace Sys2Proof.Machine

variable (s : State)

@[simp] theorem State.writeReg_resetDone (n : RegName) (v : Word) :
    (s.writeReg n v).resetDone = s.resetDone := by cases n <;> rfl

@[simp] theorem State.writeReg_pending (n : RegName) (v : Word) :
    (s.writeReg n v).pending = s.pending := by cases n <;> rfl

@[simp] theorem State.writeReg_respRaised (n : RegName) (v : Word) :
    (s.writeReg n v).respRaised = s.respRaised := by cases n <;> rfl

@[simp] theorem State.writeReg_offered (n : RegName) (v : Word) :
    (s.writeReg n v).offered = s.offered := by cases n <;> rfl

@[simp] theorem State.writeReg_inputs (n : RegName) (v : Word) :
    (s.writeReg n v).inputs = s.inputs := by cases n <;> rfl

@[simp] theorem State.writeReg_delivered (n : RegName) (v : Word) :
    (s.writeReg n v).delivered = s.delivered := by cases n <;> rfl

@[simp] theorem State.writeReg_draws (n : RegName) (v : Word) :
    (s.writeReg n v).draws = s.draws := by cases n <;> rfl

@[simp] theorem State.readReg_CRC : s.readReg .CRC = s.crc := rfl

@[simp] theorem State.writeReg_CRC (v : Word) :
    s.writeReg .CRC v = { s with crc := v } := rfl

@[simp] theorem State.readReg_POLY : s.readReg .POLY = s.poly := rfl

@[simp] theorem State.writeReg_POLY (v : Word) :
    s.writeReg .POLY v = { s with poly := v } := rfl

@[simp] theorem State.readReg_INIT : s.readReg .INIT = s.init := rfl

@[simp] theorem State.writeReg_INIT (v : Word) :
    s.writeReg .INIT v = { s with init := v } := rfl

theorem State.readReg_writeReg_same (n : RegName) (v : Word) :
    (s.writeReg n v).readReg n = v := by cases n <;> rfl

theorem State.readReg_writeReg_other (n m : RegName) (v : Word) (h : m ≠ n) :
    (s.writeReg n v).readReg m = s.readReg m := by
  cases n <;> cases m <;> first | rfl | exact absurd rfl h

@[simp] theorem State.respond_crc (data : Word) (err : Bool) :
    (s.respond data err).crc = s.crc := rfl

@[simp] theorem State.respond_poly (data : Word) (err : Bool) :
    (s.respond data err).poly = s.poly := rfl

@[simp] theorem State.respond_init (data : Word) (err : Bool) :
    (s.respond data err).init = s.init := rfl

@[simp] theorem State.respond_resetDone (data : Word) (err : Bool) :
    (s.respond data err).resetDone = s.resetDone := rfl

@[simp] theorem State.respond_pending (data : Word) (err : Bool) :
    (s.respond data err).pending = s.pending ++ [⟨data, err⟩] := rfl

@[simp] theorem State.respond_respRaised (data : Word) (err : Bool) :
    (s.respond data err).respRaised = s.respRaised := rfl

@[simp] theorem State.respond_offered (data : Word) (err : Bool) :
    (s.respond data err).offered = s.offered := rfl

@[simp] theorem State.respond_inputs (data : Word) (err : Bool) :
    (s.respond data err).inputs = s.inputs := rfl

@[simp] theorem State.respond_delivered (data : Word) (err : Bool) :
    (s.respond data err).delivered = s.delivered := rfl

@[simp] theorem State.respond_draws (data : Word) (err : Bool) :
    (s.respond data err).draws = s.draws := rfl

@[simp] theorem State.illegalCommand_crc (w : CmdWord) :
    (s.illegalCommand w).crc = s.crc := rfl

@[simp] theorem State.illegalCommand_poly (w : CmdWord) :
    (s.illegalCommand w).poly = s.poly := rfl

@[simp] theorem State.illegalCommand_init (w : CmdWord) :
    (s.illegalCommand w).init = s.init := rfl

@[simp] theorem State.illegalCommand_resetDone (w : CmdWord) :
    (s.illegalCommand w).resetDone = s.resetDone := rfl

@[simp] theorem State.illegalCommand_pending (w : CmdWord) :
    (s.illegalCommand w).pending = s.pending ++ [⟨0x0000#16, true⟩] := rfl

@[simp] theorem State.illegalCommand_respRaised (w : CmdWord) :
    (s.illegalCommand w).respRaised = s.respRaised := rfl

@[simp] theorem State.illegalCommand_offered (w : CmdWord) :
    (s.illegalCommand w).offered = s.offered := rfl

@[simp] theorem State.illegalCommand_inputs (w : CmdWord) :
    (s.illegalCommand w).inputs = s.inputs := rfl

@[simp] theorem State.illegalCommand_delivered (w : CmdWord) :
    (s.illegalCommand w).delivered = s.delivered := rfl

@[simp] theorem State.illegalCommand_draws (w : CmdWord) :
    (s.illegalCommand w).draws = s.draws := rfl

@[simp] theorem State.applyReset_crc (p : Option CmdWord) :
    (s.applyReset p).crc = 0xFFFF#16 := rfl

@[simp] theorem State.applyReset_poly (p : Option CmdWord) :
    (s.applyReset p).poly = 0x1021#16 := rfl

@[simp] theorem State.applyReset_init (p : Option CmdWord) :
    (s.applyReset p).init = 0xFFFF#16 := rfl

@[simp] theorem State.applyReset_resetDone (p : Option CmdWord) :
    (s.applyReset p).resetDone = true := rfl

@[simp] theorem State.applyReset_pending (p : Option CmdWord) :
    (s.applyReset p).pending = [] := rfl

@[simp] theorem State.applyReset_respRaised (p : Option CmdWord) :
    (s.applyReset p).respRaised = false := rfl

@[simp] theorem State.applyReset_offered (p : Option CmdWord) :
    (s.applyReset p).offered = p := rfl

@[simp] theorem State.applyReset_inputs (p : Option CmdWord) :
    (s.applyReset p).inputs = s.inputs := rfl

@[simp] theorem State.applyReset_delivered (p : Option CmdWord) :
    (s.applyReset p).delivered = s.delivered := rfl

@[simp] theorem State.applyReset_draws (p : Option CmdWord) :
    (s.applyReset p).draws = s.draws := rfl

@[simp] theorem State.forgetRegisters_crc :
    (s.forgetRegisters).crc = Config.unknownRegister s.draws := rfl

@[simp] theorem State.forgetRegisters_poly :
    (s.forgetRegisters).poly = Config.unknownRegister (s.draws + 1) := rfl

@[simp] theorem State.forgetRegisters_init :
    (s.forgetRegisters).init = Config.unknownRegister (s.draws + 2) := rfl

@[simp] theorem State.forgetRegisters_resetDone :
    (s.forgetRegisters).resetDone = s.resetDone := rfl

@[simp] theorem State.forgetRegisters_pending :
    (s.forgetRegisters).pending = s.pending := rfl

@[simp] theorem State.forgetRegisters_respRaised :
    (s.forgetRegisters).respRaised = s.respRaised := rfl

@[simp] theorem State.forgetRegisters_offered :
    (s.forgetRegisters).offered = s.offered := rfl

@[simp] theorem State.forgetRegisters_inputs :
    (s.forgetRegisters).inputs = s.inputs := rfl

@[simp] theorem State.forgetRegisters_delivered :
    (s.forgetRegisters).delivered = s.delivered := rfl

@[simp] theorem State.forgetRegisters_draws :
    (s.forgetRegisters).draws = s.draws + 3 := rfl

@[simp] theorem State.powerCycle_crc :
    (s.powerCycle).crc = Config.unknownRegister s.draws := rfl

@[simp] theorem State.powerCycle_poly :
    (s.powerCycle).poly = Config.unknownRegister (s.draws + 1) := rfl

@[simp] theorem State.powerCycle_init :
    (s.powerCycle).init = Config.unknownRegister (s.draws + 2) := rfl

@[simp] theorem State.powerCycle_resetDone :
    (s.powerCycle).resetDone = false := rfl

@[simp] theorem State.powerCycle_pending :
    (s.powerCycle).pending = [] := rfl

@[simp] theorem State.powerCycle_respRaised :
    (s.powerCycle).respRaised = false := rfl

@[simp] theorem State.powerCycle_offered :
    (s.powerCycle).offered = none := rfl

@[simp] theorem State.powerCycle_inputs :
    (s.powerCycle).inputs = s.inputs := rfl

@[simp] theorem State.powerCycle_delivered :
    (s.powerCycle).delivered = s.delivered := rfl

@[simp] theorem State.powerCycle_draws :
    (s.powerCycle).draws = s.draws + 3 := rfl

@[simp] theorem State.clockStop_crc :
    (s.clockStop).crc = Config.unknownRegister s.draws := rfl

@[simp] theorem State.clockStop_poly :
    (s.clockStop).poly = Config.unknownRegister (s.draws + 1) := rfl

@[simp] theorem State.clockStop_init :
    (s.clockStop).init = Config.unknownRegister (s.draws + 2) := rfl

@[simp] theorem State.clockStop_resetDone :
    (s.clockStop).resetDone = s.resetDone := rfl

@[simp] theorem State.clockStop_pending :
    (s.clockStop).pending = s.pending := rfl

@[simp] theorem State.clockStop_respRaised :
    (s.clockStop).respRaised = s.respRaised := rfl

@[simp] theorem State.clockStop_offered :
    (s.clockStop).offered = s.offered := rfl

@[simp] theorem State.clockStop_inputs :
    (s.clockStop).inputs = s.inputs := rfl

@[simp] theorem State.clockStop_delivered :
    (s.clockStop).delivered = s.delivered := rfl

@[simp] theorem State.clockStop_draws :
    (s.clockStop).draws = s.draws + 3 := rfl

@[simp] theorem State.responseSide_crc (e : Edge) :
    (s.responseSide e).crc = s.crc := by
  unfold State.responseSide; split <;> rfl

@[simp] theorem State.responseSide_poly (e : Edge) :
    (s.responseSide e).poly = s.poly := by
  unfold State.responseSide; split <;> rfl

@[simp] theorem State.responseSide_init (e : Edge) :
    (s.responseSide e).init = s.init := by
  unfold State.responseSide; split <;> rfl

@[simp] theorem State.responseSide_resetDone (e : Edge) :
    (s.responseSide e).resetDone = s.resetDone := by
  unfold State.responseSide; split <;> rfl

@[simp] theorem State.responseSide_offered (e : Edge) :
    (s.responseSide e).offered = s.offered := by
  unfold State.responseSide; split <;> rfl

@[simp] theorem State.responseSide_inputs (e : Edge) :
    (s.responseSide e).inputs = s.inputs := by
  unfold State.responseSide; split <;> rfl

@[simp] theorem State.responseSide_draws (e : Edge) :
    (s.responseSide e).draws = s.draws := by
  unfold State.responseSide; split <;> rfl

@[simp] theorem State.regs_crc : s.regs.crc = s.crc := rfl

@[simp] theorem State.regs_poly : s.regs.poly = s.poly := rfl

@[simp] theorem State.regs_init : s.regs.init = s.init := rfl

end Sys2Proof.Machine
end

