-- ==== Sys2Proof/Laws/Ops.lean ====
section
/-! SUPPORT. What each meaning and each operation of the port can do, said once. -/

namespace Sys2Proof.Machine

/-- What the response to a legal command is, read from the state before it (20_memory.md R44). -/
def answerOf (i : Instr) (s : State) : Response :=
  match i with
  | .crcRead => ⟨s.crc, false⟩
  | .polyRead => ⟨s.poly, false⟩
  | .initRead => ⟨s.init, false⟩
  | .crcInit | .crcByte _ | .polyWrite _ | .initWrite _ => ⟨0x0000#16, false⟩

/-- The registers after a legal command. -/
def regsAfter (i : Instr) (s : State) : Regs :=
  match i with
  | .crcInit => ⟨s.init, s.poly, s.init⟩
  | .crcByte cp => ⟨absorb s.crc s.poly (charByte cp), s.poly, s.init⟩
  | .polyWrite val => ⟨s.crc, val, s.init⟩
  | .initWrite val => ⟨s.crc, s.poly, val⟩
  | .crcRead | .polyRead | .initRead => s.regs

/-- A state with other registers. -/
def State.withRegs (s : State) (r : Regs) : State :=
  { s with crc := r.crc, poly := r.poly, init := r.init }

/-- A command changes the registers as `regsAfter` says, adds its response, and nothing else. -/
theorem exec_eq (i : Instr) (s : State) :
    exec i s = .next ((s.withRegs (regsAfter i s)).respond (answerOf i s).data (answerOf i s).err) := by
  cases i <;> rfl

/-- A word is a command's or it is illegal, and it always takes a next state. -/
theorem performWord_cases (w : CmdWord) (s : State) :
    (∃ i, decode w = .command i ∧ performWord w s = exec i s) ∨
      (decode w = .illegal ∧ performWord w s = .next (s.illegalCommand w)) := by
  unfold performWord
  cases h : decode w with
  | command i => exact .inl ⟨i, rfl, rfl⟩
  | illegal => exact .inr ⟨rfl, rfl⟩

/-- Performing a word adds exactly one response; the rest of the port is as it was. -/
theorem performWord_port (w : CmdWord) (s t : State) (h : performWord w s = .next t) :
    (∃ r, t.pending = s.pending ++ [r]) ∧ t.resetDone = s.resetDone ∧
      t.respRaised = s.respRaised ∧ t.offered = s.offered ∧ t.inputs = s.inputs ∧
      t.delivered = s.delivered ∧ t.draws = s.draws := by
  rcases performWord_cases w s with ⟨i, -, hw⟩ | ⟨-, hw⟩
  · rw [hw, exec_eq] at h
    obtain rfl := Host.Outcome.next.inj h
    exact ⟨⟨_, rfl⟩, rfl, rfl, rfl, rfl, rfl, rfl⟩
  · rw [hw] at h
    obtain rfl := Host.Outcome.next.inj h
    exact ⟨⟨_, rfl⟩, rfl, rfl, rfl, rfl, rfl, rfl⟩

/-- The response side moves responses from the port to the host, and drops none. -/
theorem State.responseSide_queue (s : State) (e : Edge) :
    (s.responseSide e).delivered ++ (s.responseSide e).pending = s.delivered ++ s.pending := by
  unfold State.responseSide
  split
  · cases h : s.pending <;> simp
  · rfl

/-- What the response side of an edge can do: deliver the oldest response, which is on the port; or
deliver nothing and remember whether a response is on the port. -/
theorem State.responseSide_cases (s : State) (e : Edge) :
    (s.respValid e = true ∧ e.respReady = true ∧ s.responseSide e =
      { s with
        pending := s.pending.tail
        delivered := s.delivered ++ s.pending.head?.toList
        respRaised := false }) ∨
    ((s.respValid e = false ∨ e.respReady = false) ∧
      s.responseSide e = { s with respRaised := s.respValid e }) := by
  unfold State.responseSide State.delivers
  cases hv : s.respValid e <;> cases hr : e.respReady <;> simp

/-- At a running edge a waiting response is on the port when it was raised or is raised now. -/
theorem State.respValid_waiting (s : State) (e : Edge) (r : Response) (rs : List Response)
    (hr : e.rst = false) (hp : s.pending = r :: rs) :
    s.respValid e = (s.respRaised || e.raiseChoice) := by
  simp [State.respValid, hr, hp]

/-- The command words of the seven commands, in numerals (30_encoding.md R72). -/
theorem encode_words :
    encode .crcInit = 0x10000000#32 ∧
    (∀ cp, encode (.crcByte cp) = 0x20000000#32 ||| cp.setWidth 32) ∧
    encode .crcRead = 0x30000000#32 ∧
    (∀ v, encode (.polyWrite v) = 0x40000000#32 ||| v.setWidth 32) ∧
    (∀ v, encode (.initWrite v) = 0x50000000#32 ||| v.setWidth 32) ∧
    encode .polyRead = 0x60000000#32 ∧ encode .initRead = 0x70000000#32 :=
  have h2 : (0x2#4).setWidth 32 <<< 28 = 0x20000000#32 := by decide
  have h4 : (0x4#4).setWidth 32 <<< 28 = 0x40000000#32 := by decide
  have h5 : (0x5#4).setWidth 32 <<< 28 = 0x50000000#32 := by decide
  ⟨by decide, fun cp => congrArg (· ||| cp.setWidth 32) h2, by decide,
    fun v => congrArg (· ||| v.setWidth 32) h4, fun v => congrArg (· ||| v.setWidth 32) h5,
    by decide, by decide⟩

/-- What an edge at which `rst` is 0 can do to a block that was reset. -/
theorem runningEdge_cases (e : Edge) (s : State) :
    (s.offerHeld e = false ∧ runningEdge e s = .refused .offerNotHeld) ∨
    (s.offerHeld e = true ∧ e.accepts = true ∧
      runningEdge e s = performWord e.cmdWord { s.responseSide e with offered := none }) ∨
    (s.offerHeld e = true ∧ e.accepts = false ∧
      runningEdge e s = .next { s.responseSide e with offered := e.presented }) := by
  unfold runningEdge
  cases hs : s.offerHeld e <;> cases ha : e.accepts <;> simp

/-- What a rising edge can do. -/
theorem clockEdge_cases (e : Edge) (s : State) :
    (e.rst = true ∧ clockEdge e s = .next (s.applyReset e.presented)) ∨
    (e.rst = false ∧ s.resetDone = true ∧ clockEdge e s = runningEdge e s) ∨
    (e.rst = false ∧ s.resetDone = false ∧ clockEdge e s = edgeBeforeReset e s) := by
  unfold clockEdge
  cases hr : e.rst <;> cases hd : s.resetDone <;> simp

/-- A block that was never reset either ignores an edge or gives it no meaning. -/
theorem edgeBeforeReset_next (e : Edge) (s t : State) (h : edgeBeforeReset e s = .next t) :
    e.cmdValid = false ∧ e.respReady = false ∧ t = s := by
  unfold edgeBeforeReset at h
  cases hv : e.cmdValid <;> cases hr : e.respReady <;> simp_all

/-- What a step can do. -/
theorem step_cases (s : State) :
    (s.inputs = [] ∧ step s = .next s) ∨
    (∃ e rest, s.inputs = .edge e :: rest ∧ step s = clockEdge e { s with inputs := rest }) ∨
    (∃ rest, s.inputs = .clockStopped :: rest ∧
      step s = .next ({ s with inputs := rest } : State).clockStop) ∨
    (∃ rest, s.inputs = .powerCycled :: rest ∧
      step s = .next ({ s with inputs := rest } : State).powerCycle) := by
  unfold step stepState
  match h : s.inputs with
  | [] => exact .inl ⟨rfl, rfl⟩
  | .edge e :: rest => exact .inr (.inl ⟨e, rest, rfl, rfl⟩)
  | .clockStopped :: rest => exact .inr (.inr (.inl ⟨rest, rfl, rfl⟩))
  | .powerCycled :: rest => exact .inr (.inr (.inr ⟨rest, rfl, rfl⟩))

end Sys2Proof.Machine
end

