-- ==== Sys2Proof/Laws/PerInstr.lean ====
section
/-! SUPPORT. Per-instruction facts about the syntax and the encoding. -/

namespace Sys2Proof.Laws

/-- The command is well formed, and its opcode is not one of those R67 calls illegal. -/
def LegalOpcode.Statement (i : Instr) : Prop :=
  i.wellFormed = true ∧ i.opcode ≠ 0x0#4 ∧ i.opcode < 0x8#4

theorem LegalOpcode.crcInit : LegalOpcode.Statement .crcInit := ⟨rfl, by decide, by decide⟩

theorem LegalOpcode.crcByte (cp : Cp) : LegalOpcode.Statement (.crcByte cp) :=
  ⟨decide_eq_true cp.isLt, by simp [Instr.opcode], by simp [Instr.opcode]⟩

theorem LegalOpcode.crcRead : LegalOpcode.Statement .crcRead := ⟨rfl, by decide, by decide⟩

theorem LegalOpcode.polyWrite (val : Word) : LegalOpcode.Statement (.polyWrite val) :=
  ⟨decide_eq_true val.isLt, by simp [Instr.opcode], by simp [Instr.opcode]⟩

theorem LegalOpcode.initWrite (val : Word) : LegalOpcode.Statement (.initWrite val) :=
  ⟨decide_eq_true val.isLt, by simp [Instr.opcode], by simp [Instr.opcode]⟩

theorem LegalOpcode.polyRead : LegalOpcode.Statement .polyRead := ⟨rfl, by decide, by decide⟩

theorem LegalOpcode.initRead : LegalOpcode.Statement .initRead := ⟨rfl, by decide, by decide⟩

end Sys2Proof.Laws
end

