-- ==== Sys2Proof/Laws/Port.lean ====
section
/-! SUPPORT. The port and runs of it, said once: what a next state of an edge holds, and how runs and
sequences of words are taken apart. -/

namespace Sys2Proof.Machine

/-- Performing a word is `exec` of R45 on the registers, and adds its response. -/
theorem performWord_regs (w : CmdWord) (s t : State) (h : performWord w s = .next t) :
    t.regs = (abstractExec s.regs w).1 ∧ t.pending = s.pending ++ [(abstractExec s.regs w).2] := by
  rcases performWord_cases w s with ⟨i, hd, hw⟩ | ⟨hd, hw⟩
  · rw [hw] at h
    cases i <;> (injection h with h; subst h; simp only [abstractExec, hd]; exact ⟨rfl, rfl⟩)
  · rw [hw] at h
    injection h with h
    subst h
    simp only [abstractExec, hd]
    exact ⟨rfl, rfl⟩

/-- Every word takes a next state. -/
theorem performWord_total (w : CmdWord) (s : State) : ∃ t, performWord w s = .next t := by
  rcases performWord_cases w s with ⟨i, -, hw⟩ | ⟨-, hw⟩
  · exact ⟨_, hw.trans (exec_eq i s)⟩
  · exact ⟨_, hw⟩

/-- Every sequence of words takes a next state. -/
theorem performWords_total (ws : List CmdWord) : ∀ s, ∃ t, performWords ws s = .next t := by
  induction ws with
  | nil => exact fun s => ⟨s, rfl⟩
  | cons w ws ih =>
    intro s
    obtain ⟨t, ht⟩ := performWord_total w s
    obtain ⟨u, hu⟩ := ih t
    exact ⟨u, by simp only [performWords, ht, hu]⟩

/-- A sequence of words in two parts. -/
theorem performWords_append (a b : List CmdWord) :
    ∀ s t, performWords a s = .next t → performWords (a ++ b) s = performWords b t := by
  induction a with
  | nil =>
    intro s t h
    injection h with h
    rw [h, List.nil_append]
  | cons w a ih =>
    intro s t h
    obtain ⟨u, hu⟩ := performWord_total w s
    simp only [performWords, List.cons_append, hu] at h ⊢
    exact ih u t h

/-- A sequence of words in two parts, in the abstract semantics. -/
theorem abstractRun_append (a b : List CmdWord) : ∀ r, abstractRun r (a ++ b) =
    ((abstractRun (abstractRun r a).1 b).1,
      (abstractRun r a).2 ++ (abstractRun (abstractRun r a).1 b).2) := by
  induction a with
  | nil => exact fun _ => rfl
  | cons w a ih =>
    intro r
    simp only [List.cons_append, abstractRun, ih]

/-- What a next state of a running edge holds. -/
theorem runningEdge_next (e : Edge) (s t : State) (h : runningEdge e s = .next t) :
    s.offerHeld e = true ∧
    t.regs = (if e.accepts then (abstractExec s.regs e.cmdWord).1 else s.regs) ∧
    t.delivered = (s.responseSide e).delivered ∧
    t.pending = (s.responseSide e).pending ++
      (if e.accepts then [(abstractExec s.regs e.cmdWord).2] else []) ∧
    t.respRaised = (s.responseSide e).respRaised ∧
    t.offered = (if e.accepts then none else e.presented) ∧
    t.inputs = s.inputs ∧ t.resetDone = s.resetDone := by
  rcases runningEdge_cases e s with ⟨-, hh⟩ | ⟨ho, ha, hh⟩ | ⟨ho, ha, hh⟩
  · rw [hh] at h
    cases h
  · rw [hh] at h
    obtain ⟨hr, hp⟩ := performWord_regs _ _ _ h
    obtain ⟨-, h1, h2, h3, h4, h5, -⟩ := performWord_port _ _ _ h
    have e1 : ({ s.responseSide e with offered := none } : State).regs = s.regs := by
      simp [State.regs]
    rw [e1] at hr hp
    simp only [ha, if_true]
    exact ⟨ho, hr, h5, hp, h2, h3, by simpa using h4, by simpa using h1⟩
  · rw [hh] at h
    injection h with h
    subst h
    simp [ha, State.regs, ho]

/-- A running edge takes a next state wherever the host keeps its duty. -/
theorem runningEdge_total (e : Edge) (s : State) (h : s.offerHeld e = true) :
    ∃ t, runningEdge e s = .next t := by
  unfold runningEdge
  rw [if_pos h]
  split
  · exact performWord_total _ _
  · exact ⟨_, rfl⟩

/-- A step at an edge. -/
theorem step_edge (s : State) (e : Edge) (rest : List HostInput) (h : s.inputs = .edge e :: rest) :
    step s = clockEdge e { s with inputs := rest } := by
  simp only [step, stepState, h, takeInput]

/-- A step at a running edge of a block that was reset. -/
theorem step_running (s : State) (e : Edge) (rest : List HostInput)
    (h : s.inputs = .edge e :: rest) (hr : e.rst = false) (hd : s.resetDone = true) :
    step s = runningEdge e { s with inputs := rest } := by
  rw [step_edge _ _ _ h]
  simp [clockEdge, hr, hd]

/-- A step at a reset edge. -/
theorem step_reset (s : State) (e : Edge) (rest : List HostInput)
    (h : s.inputs = .edge e :: rest) (hr : e.rst = true) :
    step s = .next (({ s with inputs := rest } : State).applyReset e.presented) := by
  rw [step_edge _ _ _ h]
  simp [clockEdge, hr]

/-- A run of no steps. -/
theorem core_run_zero (s : State) : Sys2Proof.core.run 0 s = .next s := rfl

/-- A run whose first step takes a next state. -/
theorem core_run_succ (n : Nat) (s t : State) (h : step s = .next t) :
    Sys2Proof.core.run (n + 1) s = Sys2Proof.core.run n t := by
  have h' : Sys2Proof.core.step s = Host.Outcome.next t := h
  simp only [Host.Core.run]
  rw [h']

/-- A run that ends in a next state took one at its first step. -/
theorem core_run_next (n : Nat) (s t : State) (h : Sys2Proof.core.run (n + 1) s = .next t) :
    ∃ u, step s = .next u ∧ Sys2Proof.core.run n u = .next t := by
  cases hs : step s with
  | next u => exact ⟨u, rfl, by rw [← h, core_run_succ n s u hs]⟩
  | fault r => exact nomatch r
  | refused r =>
    have h' : Sys2Proof.core.step s = Host.Outcome.refused r := hs
    simp only [Host.Core.run] at h
    rw [h'] at h
    cases h

end Sys2Proof.Machine
end

