-- ==== Sys2Proof/Tests/Slice0.lean ====
section
/-! SUPPORT. Small tests. Expected values are those of spec/95_test_vectors.md, or the spec's own
words where a comment says so; each `witness_` theorem shows that a statement's hypotheses can be
met. -/

namespace Sys2Proof.Tests

open Sys2Proof.Machine

/-- A block after reset with these registers. -/
def block (crc poly init : Word) : State := { State.reset with crc, poly, init }

/-- The registers and the last response after one word. -/
def afterWord (w : CmdWord) (s : State) : Option (Regs × Option Response) :=
  match performWord w s with
  | .next t => some (t.regs, t.pending.getLast?)
  | .fault _ => none
  | .refused _ => none

/-- The registers and the responses waiting after one step. -/
def afterStep (s : State) : Option (Regs × List Response) :=
  match step s with
  | .next t => some (t.regs, t.pending)
  | .fault _ => none
  | .refused _ => none

/-- The state after one step, if there is one. -/
def stepTo (s : State) : Option State :=
  match step s with
  | .next t => some t
  | .fault _ => none
  | .refused _ => none

/-! Well-formedness: each check refuses an ill-formed term (30_encoding.md R70). -/

theorem test_wf_cp_too_wide : (AsmStmt.crcByte (.number 0x200000)).wellFormed = false := by decide
theorem test_wf_cp_widest : (AsmStmt.crcByte (.number 0x1FFFFF)).wellFormed = true := by decide
theorem test_wf_poly_too_wide : (AsmStmt.polyWrite (.number 0x10000)).wellFormed = false := by decide
theorem test_wf_init_too_wide : (AsmStmt.initWrite (.number 0x10000)).wellFormed = false := by decide
theorem test_wf_val_character : (AsmStmt.polyWrite (.character 0x31)).wellFormed = false := by decide
theorem test_wf_start_first : (AsmStmt.crcStart (.number 0x10000) (.number 0)).wellFormed = false := by
  decide
theorem test_wf_start_second : (AsmStmt.crcStart (.number 0) (.number 0x10000)).wellFormed = false := by
  decide

/-! Decoding: words written out bit by bit from 30_encoding.md R62, R63, R64, R66. -/

theorem test_decode_crcInit :
    decode 0b0001_0000000000000000000000000000#32 = .command .crcInit := by decide
theorem test_decode_crcByte :
    decode 0b0010_0000000_000000010000010101100#32 = .command (.crcByte 0x20AC#21) := by decide
theorem test_decode_crcByte_top :
    decode 0b0010_0000000_100000000000000000001#32 = .command (.crcByte 0x100001#21) := by decide
theorem test_decode_crcRead :
    decode 0b0011_0000000000000000000000000000#32 = .command .crcRead := by decide
theorem test_decode_polyWrite :
    decode 0b0100_000000000000_1000000000000101#32 = .command (.polyWrite 0x8005#16) := by decide
theorem test_decode_initWrite :
    decode 0b0101_000000000000_0001110100001111#32 = .command (.initWrite 0x1D0F#16) := by decide
theorem test_decode_polyRead :
    decode 0b0110_0000000000000000000000000000#32 = .command .polyRead := by decide
theorem test_decode_initRead :
    decode 0b0111_0000000000000000000000000000#32 = .command .initRead := by decide

/-- Vectors D1 to D8, D10, D11, D13 to D15. -/
theorem test_decode_illegal :
    [0x00000000#32, 0x80000000#32, 0xF0000000#32, 0xFFFFFFFF#32, 0x10000001#32, 0x18000000#32,
      0x20200000#32, 0x2FE00000#32, 0x30000100#32, 0x40010000#32, 0x50100000#32, 0x60000001#32,
      0x70008000#32].all (fun w => decide (decode w = .illegal)) = true := by decide

/-- A table word of the opcode table's numbering. -/
theorem test_decodeTableWord : decodeTableWord 32 0x201FFFFF = some (.crcByte 0x1FFFFF#21) := by
  decide

/-! The datapath: vectors ST1, ST3, ST7, B1, B8, B11; R100's form on B8. -/

theorem test_step1_top_bit : step1 0x8000#16 0x1021#16 = 0x1021#16 := by decide
theorem test_step1_shift_then_xor : step1 0xFFFF#16 0x1021#16 = 0xEFDF#16 := by decide
theorem test_step1_next_bit : step1 0xC000#16 0x1021#16 = 0x9021#16 := by decide
theorem test_absorb_example : absorb 0xFFFF#16 0x1021#16 0x31#8 = 0xC782#16 := by decide
theorem test_absorb_general : absorb 0x1234#16 0x1021#16 0x56#8 = 0x3C40#16 := by decide
theorem test_absorb_all_ones : absorb 0xFFFF#16 0xFFFF#16 0x00#8 = 0x0080#16 := by decide
theorem test_absorbSerial : absorbSerial 0x1234#16 0x1021#16 0x56#8 = 0x3C40#16 := by decide
theorem test_unstep1 : unstep1 0x9021#16 0x1021#16 = 0xC000#16 := by decide

/-! The reference: S3b and S3a, the two values 90_conflicts.md C1 gives for "123456789". -/

theorem test_crcRef_default : crcRef [0x31, 0x32, 0x33, 0x34, 0x35, 0x36, 0x37, 0x38, 0x39]
    0x1021#16 0xFFFF#16 = 0x29B1#16 := by decide +kernel
theorem test_crcRef_zero_init : crcRef [0x31, 0x32, 0x33, 0x34, 0x35, 0x36, 0x37, 0x38, 0x39]
    0x1021#16 0x0000#16 = 0x31C3#16 := by decide +kernel
theorem test_crcRefTrunc : crcRefTrunc 32 [0x20AC] 0x1021#16 0xFFFF#16 = 0x9596#16 := by decide

/-! The commands: vectors C1, C4, C8, C9, K1, K4, K7, K8, D5. -/

theorem test_crcInit : afterWord 0x10000000#32 (block 0xABCD#16 0x1021#16 0x1D0F#16) =
    some (⟨0x1D0F#16, 0x1021#16, 0x1D0F#16⟩, some ⟨0x0000#16, false⟩) := by decide
theorem test_crcByte_wide_character : afterWord 0x200020AC#32 (block 0xFFFF#16 0x1021#16 0xFFFF#16) =
    some (⟨0x9596#16, 0x1021#16, 0xFFFF#16⟩, some ⟨0x0000#16, false⟩) := by decide
theorem test_crcByte_zero_poly : afterWord 0x20000099#32 (block 0x1234#16 0x0000#16 0xFFFF#16) =
    some (⟨0x3400#16, 0x0000#16, 0xFFFF#16⟩, some ⟨0x0000#16, false⟩) := by decide
theorem test_crcRead : afterWord 0x30000000#32 (block 0x29B1#16 0x1021#16 0xFFFF#16) =
    some (⟨0x29B1#16, 0x1021#16, 0xFFFF#16⟩, some ⟨0x29B1#16, false⟩) := by decide
theorem test_polyWrite : afterWord 0x40008005#32 (block 0xFFFF#16 0x1021#16 0xFFFF#16) =
    some (⟨0xFFFF#16, 0x8005#16, 0xFFFF#16⟩, some ⟨0x0000#16, false⟩) := by decide
theorem test_initWrite : afterWord 0x50000000#32 (block 0x1234#16 0x1021#16 0xFFFF#16) =
    some (⟨0x1234#16, 0x1021#16, 0x0000#16⟩, some ⟨0x0000#16, false⟩) := by decide
theorem test_initRead : afterWord 0x70000000#32 (block 0x5555#16 0x8005#16 0x1D0F#16) =
    some (⟨0x5555#16, 0x8005#16, 0x1D0F#16⟩, some ⟨0x1D0F#16, false⟩) := by decide
theorem test_polyRead : afterWord 0x60000000#32 (block 0x5555#16 0x8005#16 0x1D0F#16) =
    some (⟨0x5555#16, 0x8005#16, 0x1D0F#16⟩, some ⟨0x8005#16, false⟩) := by decide
theorem test_illegal_word : afterWord 0x10000001#32 (block 0xFFFF#16 0x1021#16 0xFFFF#16) =
    some (⟨0xFFFF#16, 0x1021#16, 0xFFFF#16⟩, some ⟨0x0000#16, true⟩) := by decide

/-! The step: vector C3 placed and run; no command before the first reset (R170); a changed offer
(R42); delivery (R43). -/

/-- An edge at which nothing is presented or taken. -/
def quietEdge : Edge := ⟨false, false, 0#32, false, false, false⟩

/-- An edge at which `rst` is 1. -/
def resetEdge : Edge := ⟨true, false, 0#32, false, false, false⟩

theorem test_step_placed_word : afterStep (State.reset.withFetchWord 32 0x20000031) =
    some (⟨0xC782#16, 0x1021#16, 0xFFFF#16⟩, [⟨0x0000#16, false⟩]) := by decide
theorem test_step_before_reset :
    step { State.reset with resetDone := false, inputs := [.edge (sendEdge 0x30000000#32)] } =
      .refused .portUsedBeforeReset := rfl
theorem test_step_changed_offer :
    step { State.reset with
      offered := some 0x30000000#32, inputs := [.edge (sendEdge 0x60000000#32)] } =
      .refused .offerNotHeld := rfl
theorem test_step_delivers :
    (stepTo { State.reset with
      pending := [⟨0x29B1#16, false⟩], inputs := [.edge takeEdge] }).map (·.delivered) =
      some [⟨0x29B1#16, false⟩] := by decide

/-! The host and the assembler: H3, H16, R131's example, R70's and R71's examples. -/

theorem test_calculateCRC_A :
    calculateCRC .codePoint [0x41] (r := resetRegs) = some ['B', '9', '1', '5'] := by
  decide +kernel
theorem test_calculateCRC_utf16 :
    calculateCRC .utf16Unit [0x1F600] 0x1021#16 0xFFFF#16 resetRegs = some ['6', 'E', 'C', '6'] := by
  decide +kernel
theorem test_formatText : formatText 0x00A5#16 = ['0', '0', 'A', '5'] := by decide
theorem test_assemble_character :
    assembleLine .codePoint "CRC_BYTE '1' ; one".toList = some [0x20000031#32] := by decide
theorem test_assemble_number :
    assembleLine .codePoint "POLY_WRITE 4129".toList = some [0x40001021#32] := by decide
theorem test_assemble_start : assembleLine .codePoint "CRC_START 0x1021, 0xFFFF".toList =
    some [0x40001021#32, 0x5000FFFF#32, 0x10000000#32] := by decide
theorem test_assemble_str : assembleLine .codePoint
    ("CRC_STR ".toList ++ [Char.ofNat 34, 'A', ';', Char.ofNat 34]) =
    some [0x20000041#32, 0x2000003B#32] := by decide
theorem test_assemble_refuses : assembleLine .codePoint "INIT_WRITE 0x10000".toList = none := by
  decide
theorem test_assemble_comment_only : assembleLine .codePoint "  ; nothing".toList = some [] := by
  decide

/-! Witnesses: the hypotheses of each statement that has any, met together, at a boundary value of
each clause. -/

/-- A block with one response raised and not yet taken. -/
def waiting : State := { State.reset with pending := [⟨0x29B1#16, false⟩], respRaised := true }

theorem witness_DecodeOfEncodeGivesTheCommand :
    (Instr.crcByte 0x1FFFFF#21).wellFormed = true ∧ (Instr.polyWrite 0xFFFF#16).wellFormed = true := by
  decide

theorem witness_OnlyItsEncodingDecodesToACommand :
    decode 0x5000FFFF#32 = .command (.initWrite 0xFFFF#16) := by decide

theorem witness_DecodeAgreesWithTheOpcodeMap :
    ∃ r ∈ opcodeTable, ∃ r' ∈ opcodeTable, r.fits 0x201FFFFF#32 = true ∧ r'.fits 0x201FFFFF#32 = true :=
  ⟨⟨"CRC_BYTE", 0x20000000#32, 0xFFE00000#32⟩, by decide,
    ⟨"CRC_BYTE", 0x20000000#32, 0xFFE00000#32⟩, by decide, by decide, by decide⟩

/-- Each clause of `illegalWord`, at its lowest and highest must-be-zero bit; also for
`ResponseOfEveryCommand` and `IllegalCommandIsNotSticky`. -/
theorem witness_IllegalWordsAndTheirEffect :
    [0x00000000#32, 0x0FFFFFFF#32, 0x80000000#32, 0xFFFFFFFF#32, 0x10000001#32, 0x18000000#32,
      0x30000001#32, 0x38000000#32, 0x60000001#32, 0x68000000#32, 0x70000001#32, 0x78000000#32,
      0x40010000#32, 0x48000000#32, 0x50010000#32, 0x58000000#32, 0x20200000#32,
      0x28000000#32].all illegalWord = true := by decide

theorem witness_CrcInitLoadsCrcFromInit :
    (opField 0x10000001#32 = 0x1#4 ∧ (0x10000001#32).extractLsb' 0 28 ≠ 0#28) ∧
    (opField 0x18000000#32 = 0x1#4 ∧ (0x18000000#32).extractLsb' 0 28 ≠ 0#28) ∧
    ∃ t u : State, exec .crcInit State.reset = .next t ∧ exec .crcInit t = .next u :=
  ⟨by decide, by decide, _, _, rfl, rfl⟩

theorem witness_CrcByteAbsorbsTheLowByte :
    (opField 0x20200000#32 = 0x2#4 ∧ (0x20200000#32).extractLsb' 21 7 ≠ 0#7) ∧
    (opField 0x28000000#32 = 0x2#4 ∧ (0x28000000#32).extractLsb' 21 7 ≠ 0#7) ∧
    (0x1FFFFF#21).extractLsb' 0 8 = (0x0000FF#21).extractLsb' 0 8 ∧
    ∃ t : State, (block 0x1234#16 0x0000#16 0xFFFF#16).poly = 0x0000#16 ∧
      exec (.crcByte 0x99#21) (block 0x1234#16 0x0000#16 0xFFFF#16) = .next t :=
  ⟨by decide, by decide, by decide, _, rfl, rfl⟩

theorem witness_CrcReadReturnsCrc :
    (opField 0x30000001#32 = 0x3#4 ∧ (0x30000001#32).extractLsb' 0 28 ≠ 0#28) ∧
    (opField 0x38000000#32 = 0x3#4 ∧ (0x38000000#32).extractLsb' 0 28 ≠ 0#28) ∧
    ∃ t u : State, exec .crcRead State.reset = .next t ∧ exec .crcRead t = .next u :=
  ⟨by decide, by decide, _, _, rfl, rfl⟩

theorem witness_PolyWriteSetsPoly :
    (opField 0x40010000#32 = 0x4#4 ∧ (0x40010000#32).extractLsb' 16 12 ≠ 0#12) ∧
    (opField 0x48000000#32 = 0x4#4 ∧ (0x48000000#32).extractLsb' 16 12 ≠ 0#12) ∧
    ∃ t u : State, exec (.polyWrite 0x0000#16) State.reset = .next t ∧
      exec (.crcByte 0x1FFFFF#21) t = .next u :=
  ⟨by decide, by decide, _, _, rfl, rfl⟩

theorem witness_InitWriteSetsInit :
    (opField 0x50010000#32 = 0x5#4 ∧ (0x50010000#32).extractLsb' 16 12 ≠ 0#12) ∧
    (opField 0x58000000#32 = 0x5#4 ∧ (0x58000000#32).extractLsb' 16 12 ≠ 0#12) ∧
    ∃ t u : State, exec (.initWrite 0xFFFF#16) State.reset = .next t ∧ exec .crcInit t = .next u :=
  ⟨by decide, by decide, _, _, rfl, rfl⟩

theorem witness_PolyReadReturnsPoly :
    (opField 0x60000001#32 = 0x6#4 ∧ (0x60000001#32).extractLsb' 0 28 ≠ 0#28) ∧
    (opField 0x68000000#32 = 0x6#4 ∧ (0x68000000#32).extractLsb' 0 28 ≠ 0#28) ∧
    ∃ t : State, exec .polyRead State.reset = .next t :=
  ⟨by decide, by decide, _, rfl⟩

theorem witness_InitReadReturnsInit :
    (opField 0x70000001#32 = 0x7#4 ∧ (0x70000001#32).extractLsb' 0 28 ≠ 0#28) ∧
    (opField 0x78000000#32 = 0x7#4 ∧ (0x78000000#32).extractLsb' 0 28 ≠ 0#28) ∧
    ∃ t : State, exec .initRead State.reset = .next t :=
  ⟨by decide, by decide, _, rfl⟩

theorem witness_CommandFrame :
    (∀ cp, Instr.crcRead ≠ .crcByte cp) ∧ Instr.crcRead ≠ .crcInit ∧
    (∀ v, Instr.crcRead ≠ .polyWrite v) ∧ (∀ v, Instr.crcRead ≠ .initWrite v) := by
  simp

theorem witness_ResponseOfEveryCommand : illegalWord 0x28000000#32 = true := by decide

theorem witness_IllegalCommandAnswersErrAndWritesNothing :
    decode 0x80000000#32 = .illegal ∧
    ∃ (t : State) (r : Response), performWord 0x80000000#32 State.reset = .next t ∧
      t.pending = State.reset.pending ++ [r] :=
  ⟨by decide, _, _, rfl, rfl⟩

theorem witness_IllegalCommandIsNotSticky : illegalWord 0x00000000#32 = true := by decide

theorem witness_ReadsRepeatWritesAreIdempotent :
    (Instr.initRead = .crcRead ∨ Instr.initRead = .polyRead ∨ Instr.initRead = .initRead) ∧
    (Instr.polyWrite 0xFFFF#16 = .polyWrite 0xFFFF#16 ∨ Instr.polyWrite 0xFFFF#16 = .initWrite 0xFFFF#16 ∨
      Instr.polyWrite 0xFFFF#16 = .crcInit) :=
  ⟨.inr (.inr rfl), .inl rfl⟩

theorem witness_ConfigurationReadsBackWhatWasWritten :
    (∀ w ∈ [0x10000000#32, 0x5000FFFF#32, 0x00000000#32], ∀ x, decode w ≠ .command (.polyWrite x)) ∧
    (∀ w ∈ [0x10000000#32, 0x4000FFFF#32, 0x00000000#32], ∀ x, decode w ≠ .command (.initWrite x)) := by
  constructor <;> intro w hw x <;> simp only [List.mem_cons, List.not_mem_nil, or_false] at hw <;>
    rcases hw with rfl | rfl | rfl <;> simp [decode, opField, zeroBitsN, zeroBitsV, zeroBitsD]

theorem witness_InitWriteLeavesARunningComputation :
    ∀ w ∈ [0x20000031#32, 0x30000000#32], decode w ≠ .command .crcInit := by
  intro w hw
  simp only [List.mem_cons, List.not_mem_nil, or_false] at hw
  rcases hw with rfl | rfl <;> simp [decode, opField, zeroBitsN, zeroBitsD]

theorem witness_StepOneBitByBit : 0 < 16 ∧ 15 < 16 := by decide

theorem witness_WideAlgorithmEqualsDatapath : 16 ≤ 16 ∧ 16 ≤ 32 := by decide

theorem witness_StepOneIsABijectionForOddPolynomials :
    (0x1021#16).getLsbD 0 = true ∧ (0x1020#16).getLsbD 0 = false := by decide

theorem witness_StepPerformsTheDecodedCommand :
    ∃ (s : State) (e : Edge) (rest : List HostInput) (i : Instr),
      s.inputs = .edge e :: rest ∧ e.rst = false ∧ s.resetDone = true ∧ s.offerHeld e = true ∧
      e.cmdValid = true ∧ e.readyChoice = true ∧ decode e.cmdWord = .command i :=
  ⟨{ waiting with offered := some 0x30000000#32, inputs := [.edge (sendEdge 0x30000000#32)] },
    sendEdge 0x30000000#32, [], .crcRead, rfl, rfl, rfl, by decide, rfl, rfl, by decide⟩

theorem witness_StepPerformsThePlacedWord :
    State.reset.resetDone = true ∧ decode 0x201FFFFF#32 = .command (.crcByte 0x1FFFFF#21) := by decide

theorem witness_NothingAcceptedKeepsTheRegisters :
    (∃ (s : State) (e : Edge) (rest : List HostInput),
      s.inputs = .edge e :: rest ∧ e.rst = false ∧ s.resetDone = true ∧ s.offerHeld e = true ∧
      (e.cmdValid && e.readyChoice) = false) ∧ State.reset.inputs = [] :=
  ⟨⟨{ State.reset with inputs := [.edge (stallEdge 0x10000000#32)] }, stallEdge 0x10000000#32, [],
    rfl, rfl, rfl, rfl, rfl⟩, rfl⟩

theorem witness_ChangedOfferIsRefused :
    ∃ (s s' : State), s.resetDone = true ∧ s.offered = some 0x30000000#32 ∧
      s.inputs = [.edge quietEdge] ∧ quietEdge.rst = false ∧ quietEdge.cmdValid = false ∧
      s'.resetDone = true ∧ s'.offered = some 0x30000000#32 ∧
      s'.inputs = [.edge (sendEdge 0x30000001#32)] ∧ (0x30000001#32) ≠ 0x30000000#32 :=
  ⟨{ State.reset with offered := some 0x30000000#32, inputs := [.edge quietEdge] },
    { State.reset with
      offered := some 0x30000000#32, inputs := [.edge (sendEdge 0x30000001#32)] },
    rfl, rfl, rfl, rfl, rfl, rfl, rfl, rfl, by decide⟩

/-- The clauses with hypotheses: a raised response not taken, one raised at this edge and not taken, one
taken, and one that waits but is not on the port although the host would take it. -/
theorem witness_ResponsesAreQueuedAndHeld :
    (∃ t : State, step { waiting with inputs := [.edge (sendEdge 0x30000000#32)] } = .next t) ∧
    (sendEdge 0x30000000#32).respReady = false ∧ waiting.respRaised = true ∧
    waiting.pending = [⟨0x29B1#16, false⟩] ∧ waiting.resetDone = true ∧
    (∃ t : State, step { waiting with
      respRaised := false, inputs := [.edge { quietEdge with raiseChoice := true }] } = .next t) ∧
    ({ quietEdge with raiseChoice := true } : Edge).respReady = false ∧
    (∃ t : State, step { waiting with inputs := [.edge takeEdge] } = .next t) ∧
    takeEdge.respReady = true ∧ takeEdge.rst = false ∧
    (∃ t : State, step { waiting with
      respRaised := false, inputs := [.edge { quietEdge with respReady := true }] } = .next t) ∧
    ({ waiting with respRaised := false } : State).respValid
      { quietEdge with respReady := true } = false ∧
    (stallEdge 0#32).readyChoice = false ∧ State.reset.offered = none :=
  ⟨⟨_, rfl⟩, rfl, rfl, rfl, rfl, ⟨_, rfl⟩, rfl, ⟨_, rfl⟩, rfl, rfl, ⟨_, rfl⟩, rfl, rfl, rfl⟩

theorem witness_HandshakeRefinesTheAbstractSequence :
    ∃ (ins rest : List HostInput) (s t : State), runningEdges ins = true ∧ s.resetDone = true ∧
      s.inputs = ins ++ rest ∧ Sys2Proof.core.run ins.length s = .next t :=
  ⟨[.edge (sendEdge 0x10000000#32), .edge takeEdge], [.powerCycled],
    { State.reset with
      inputs := [.edge (sendEdge 0x10000000#32), .edge takeEdge, .powerCycled] },
    _, rfl, rfl, rfl, rfl⟩

theorem witness_DutifulHostIsNeverRefused :
    runningEdges [.edge (stallEdge 0x10000000#32), .edge (sendEdge 0x10000000#32)] = true ∧
    dutyKept none [.edge (stallEdge 0x10000000#32), .edge (sendEdge 0x10000000#32)] = true := by
  decide

theorem witness_EveryStepKeepsThePortInvariant :
    ∃ s t : State, PortInv s ∧ s.pending ≠ [] ∧ step s = .next t :=
  ⟨{ waiting with inputs := [.edge takeEdge] }, _,
    ⟨by simp [waiting], by simp [waiting, State.reset], by simp [waiting, State.reset]⟩,
    by simp [waiting], rfl⟩

theorem witness_ResetEdgeSetsTheRegisters :
    ∃ (s : State) (e : Edge) (w : CmdWord), s.inputs = [.edge e, .edge (sendEdge w)] ∧ e.rst = true ∧
      e.cmdValid = true ∧ e.cmdWord = w :=
  ⟨{ State.reset with
      inputs := [.edge { resetEdge with cmdValid := true, cmdWord := 0x30000000#32 },
        .edge (sendEdge 0x30000000#32)] },
    { resetEdge with cmdValid := true, cmdWord := 0x30000000#32 }, 0x30000000#32, rfl, rfl, rfl, rfl⟩

theorem witness_ResetDiscardsWorkInProgress :
    ∃ s s' : State, s.inputs = [.edge resetEdge] ∧ s'.inputs = [.edge resetEdge] ∧
      resetEdge.rst = true ∧ s'.delivered = s.delivered ∧ s'.draws = s.draws ∧ s' ≠ s :=
  ⟨{ waiting with inputs := [.edge resetEdge] },
    { State.reset with crc := 0x1234#16, inputs := [.edge resetEdge] },
    rfl, rfl, rfl, rfl, rfl, by decide⟩

theorem witness_NoCommandBeforeTheFirstReset :
    (∃ s : State, s.inputs = [.edge (sendEdge 0x30000000#32)] ∧ s.resetDone = false) ∧
    (sendEdge 0x30000000#32).rst = false ∧ (sendEdge 0x30000000#32).cmdValid = true ∧
    ∃ s : State, s.inputs = [.powerCycled] :=
  ⟨⟨{ State.reset with resetDone := false, inputs := [.edge (sendEdge 0x30000000#32)] }, rfl, rfl⟩,
    rfl, rfl, { State.reset with inputs := [.powerCycled] }, rfl⟩

theorem witness_StoppedClockLeavesFreeRegisters :
    ∃ s : State, s.inputs = [.clockStopped] :=
  ⟨{ State.reset with inputs := [.clockStopped] }, rfl⟩

theorem witness_HostThatTakesNothingMayStall :
    runningEdges [.edge (sendEdge 0x30000000#32)] = true ∧
    neverTakes [.edge (sendEdge 0x30000000#32)] = true ∧
    (∃ t : State, Sys2Proof.core.run 1
      { State.reset with inputs := [.edge (sendEdge 0x30000000#32)] } = .next t) ∧
    ∃ s : State, s.resetDone = true ∧ s.offered = some 0x30000000#32 ∧
      s.inputs = List.replicate 2 (.edge (stallEdge 0x30000000#32)) ++ [] :=
  ⟨by decide, by decide, ⟨_, rfl⟩,
    { State.reset with
      offered := some 0x30000000#32
      inputs := [.edge (stallEdge 0x30000000#32), .edge (stallEdge 0x30000000#32)] },
    rfl, rfl, rfl⟩

theorem witness_CalculateCrcGivesTheSourceChecksum :
    ∃ (ins : List HostInput) (s t : State), runningEdges ins = true ∧ s.resetDone = true ∧
      s.inputs = ins ++ [] ∧ acceptedWords ins = calculateWords .codePoint [] 0x1021#16 0xFFFF#16 ∧
      Sys2Proof.core.run ins.length s = .next t :=
  ⟨sendAll (calculateWords .codePoint [] 0x1021#16 0xFFFF#16),
    { State.reset with inputs := sendAll (calculateWords .codePoint [] 0x1021#16 0xFFFF#16) },
    _, rfl, rfl, rfl, rfl, rfl⟩

theorem witness_CalculateCrcCompletesForOneHost :
    ∃ s : State, s.resetDone = true ∧ s.offered = none ∧ s.pending = [] ∧
      s.inputs = sendAll (calculateWords .utf16Unit [0x1F600] 0x1021#16 0xFFFF#16) :=
  ⟨{ State.reset with
      inputs := sendAll (calculateWords .utf16Unit [0x1F600] 0x1021#16 0xFFFF#16) },
    rfl, rfl, rfl, rfl⟩

theorem witness_SegmentationsAgreeUpToFFFF :
    (∀ c ∈ ([0x0, 0xFFFF] : Text), c.val ≤ 0xFFFF) ∧
    0xFFFF < (0x10000 : CodePoint).val ∧ 0xFFFF < (0x10FFFF : CodePoint).val := by
  refine ⟨fun c hc => ?_, by norm_num, by norm_num⟩
  simp only [List.mem_cons, List.not_mem_nil, or_false] at hc
  rcases hc with rfl | rfl <;> norm_num

theorem witness_InitialValueToResultIsABijection :
    (0x0001#16).getLsbD 0 = true ∧ (0x1021#16).getLsbD 0 = true ∧
    calculateCRC .codePoint [] 0x1021#16 0xFFFF#16 resetRegs =
      calculateCRC .codePoint [] 0x1021#16 0xFFFF#16 resetRegs := by
  exact ⟨by decide, by decide, rfl⟩

end Sys2Proof.Tests
end

section
/-! The encoder and `decode` agree on the seven commands (30_encoding.md R69, R72). -/

namespace Sys2Proof

/-- An operand is at most 21 bits wide (R62, R63, R64), so it never reaches the opcode field. -/
theorem operandBits_getElem_high (i : Instr) (k : Nat) (hk : k < 32) (h : 21 ≤ k) :
    i.operandBits[k] = false := by
  cases i with
  | crcByte cp => simp [Instr.operandBits, BitVec.getLsbD_of_ge cp k h]
  | polyWrite val | initWrite val =>
    simp [Instr.operandBits, BitVec.getLsbD_of_ge val k (by omega)]
  | crcInit | crcRead | polyRead | initRead => simp [Instr.operandBits]

/-- The opcode field of a command word is the command's opcode (R61, R66). -/
@[simp] theorem opField_encode (i : Instr) : opField (encode i) = i.opcode := by
  unfold opField
  ext j hj
  have hbit : 28 + j < 32 := by omega
  have hhigh : i.operandBits[28 + j] = false := operandBits_getElem_high i (28 + j) hbit (by omega)
  simp [encode, hbit, hhigh, hj, BitVec.getLsbD_eq_getElem]

/-- The low bits of a command word are its operand, in the operand's own width (R63, R64). -/
theorem extractLsb'_encode_operand (i : Instr) {n : Nat} (x : BitVec n)
    (hx : i.operandBits = x.setWidth 32) (hn : n ≤ 28) : (encode i).extractLsb' 0 n = x := by
  ext j hj
  have hlow : j < 28 := by omega
  have hbit : j < 32 := by omega
  simp [encode, hx, hlow, hbit, hj]

/-- Between its operand and its opcode a command word holds zeros (R62, R63, R64). -/
theorem extractLsb'_encode_zero (i : Instr) {n : Nat} (x : BitVec n)
    (hx : i.operandBits = x.setWidth 32) (m : Nat) (hm : n + m ≤ 28) :
    (encode i).extractLsb' n m = 0#m := by
  ext j hj
  have hlow : n + j < 28 := by omega
  simp [encode, hx, hlow]

/-- The fields of a command of format V (R63). -/
theorem encode_fields_of_formatV (i : Instr) (val : Word) (h : i.operandBits = val.setWidth 32) :
    valField (encode i) = val ∧ zeroBitsV (encode i) = true :=
  ⟨extractLsb'_encode_operand i val h (by decide),
    beq_iff_eq.mpr (extractLsb'_encode_zero i val h 12 (by decide))⟩

/-- The fields of a command of format D (R64). -/
theorem encode_fields_of_formatD (i : Instr) (cp : Cp) (h : i.operandBits = cp.setWidth 32) :
    cpField (encode i) = cp ∧ zeroBitsD (encode i) = true :=
  ⟨extractLsb'_encode_operand i cp h (by decide),
    beq_iff_eq.mpr (extractLsb'_encode_zero i cp h 7 (by decide))⟩

/-- `decode` gives back the command that was encoded, for every operand (R69, R72). -/
@[simp] theorem decode_encode (i : Instr) : decode (encode i) = .command i := by
  cases i with
  | crcByte cp =>
    obtain ⟨hcp, hzero⟩ := encode_fields_of_formatD (.crcByte cp) cp rfl
    simp [decode, Instr.opcode, hcp, hzero]
  | polyWrite val =>
    obtain ⟨hval, hzero⟩ := encode_fields_of_formatV (.polyWrite val) val rfl
    simp [decode, Instr.opcode, hval, hzero]
  | initWrite val =>
    obtain ⟨hval, hzero⟩ := encode_fields_of_formatV (.initWrite val) val rfl
    simp [decode, Instr.opcode, hval, hzero]
  | crcInit | crcRead | polyRead | initRead => decide

end Sys2Proof
end

section
/-! The registers along sequences of command words: which command writes which register (the access
column of 10_state.md R20), and what a register holds until it is written again (R25). -/

namespace Sys2Proof.Machine

/-- The one register a command writes, if it writes any: the access column of R20. -/
def writtenReg : Instr → Option RegName
  | .crcInit | .crcByte _ => some .CRC
  | .polyWrite _ => some .POLY
  | .initWrite _ => some .INIT
  | .crcRead | .polyRead | .initRead => none

theorem writtenReg_eq_POLY_iff (i : Instr) :
    writtenReg i = some .POLY ↔ ∃ x, i = .polyWrite x := by
  cases i <;> simp [writtenReg]

theorem writtenReg_eq_INIT_iff (i : Instr) :
    writtenReg i = some .INIT ↔ ∃ x, i = .initWrite x := by
  cases i <;> simp [writtenReg]

/-- A command leaves every register it does not write as it was. -/
theorem readReg_regsAfter_of_not_written (i : Instr) (n : RegName) (s : State)
    (hn : writtenReg i ≠ some n) : (s.withRegs (regsAfter i s)).readReg n = s.readReg n := by
  have other (m : RegName) (hm : writtenReg i = some m) : n ≠ m :=
    fun h => hn (hm.trans (congrArg some h.symm))
  cases i with
  | crcInit | crcByte _ => exact s.readReg_writeReg_other .CRC n _ (other _ rfl)
  | polyWrite _ => exact s.readReg_writeReg_other .POLY n _ (other _ rfl)
  | initWrite _ => exact s.readReg_writeReg_other .INIT n _ (other _ rfl)
  | crcRead | polyRead | initRead => rfl

/-- A response does not touch the registers. -/
@[simp] theorem State.readReg_respond (s : State) (data : Word) (err : Bool) (n : RegName) :
    (s.respond data err).readReg n = s.readReg n := by cases n <;> rfl

/-- An encoded command is performed as `exec` says, whatever its operand. -/
theorem performWord_encode (i : Instr) (s : State) :
    performWord (encode i) s =
      .next ((s.withRegs (regsAfter i s)).respond (answerOf i s).data (answerOf i s).err) := by
  simp only [performWord, decode_encode, exec_eq]

/-- A word that is no command writing the register leaves it as it was; an illegal word writes none. -/
theorem performWord_readReg_of_not_written (w : CmdWord) (n : RegName) (s t : State)
    (hw : ∀ i, decode w = .command i → writtenReg i ≠ some n) (h : performWord w s = .next t) :
    t.readReg n = s.readReg n := by
  rcases performWord_cases w s with ⟨i, hi, hexec⟩ | ⟨-, hillegal⟩
  · rw [hexec, exec_eq] at h
    obtain rfl := Host.Outcome.next.inj h
    rw [State.readReg_respond, readReg_regsAfter_of_not_written i n s (hw i hi)]
  · rw [hillegal] at h
    obtain rfl := Host.Outcome.next.inj h
    exact s.readReg_respond noData errIllegal n

/-- A register is unchanged along any words among which no command writes it (R25). -/
theorem performWords_readReg_of_not_written (ws : List CmdWord) (n : RegName)
    (hws : ∀ w ∈ ws, ∀ i, decode w = .command i → writtenReg i ≠ some n) :
    ∀ s t, performWords ws s = .next t → t.readReg n = s.readReg n := by
  induction ws with
  | nil =>
    intro s t h
    rw [Host.Outcome.next.inj h]
  | cons w ws ih =>
    intro s t h
    obtain ⟨hw, hrest⟩ := List.forall_mem_cons.mp hws
    obtain ⟨u, hu⟩ := performWord_total w s
    simp only [performWords, hu] at h
    calc t.readReg n = u.readReg n := ih hrest u t h
      _ = s.readReg n := performWord_readReg_of_not_written w n s u hw hu

/-- What `wr` writes to a register is what `rd` answers, after any words between them that do not write
it (R25): the argument for both configuration registers. -/
theorem performWords_write_then_read (n : RegName) (v : Word) (wr rd : Instr) (ws : List CmdWord)
    (s : State) (hwr : (s.withRegs (regsAfter wr s)).readReg n = v)
    (hws : ∀ w ∈ ws, ∀ i, decode w = .command i → writtenReg i ≠ some n)
    (hrd : ∀ u : State, regsAfter rd u = u.regs ∧ answerOf rd u = ⟨u.readReg n, false⟩) :
    ∃ t, performWords (encode wr :: (ws ++ [encode rd])) s = .next t ∧
      t.readReg n = v ∧ t.pending.getLast? = some ⟨v, false⟩ := by
  set written : State :=
    (s.withRegs (regsAfter wr s)).respond (answerOf wr s).data (answerOf wr s).err with hwritten
  obtain ⟨u, hu⟩ := performWords_total ws written
  have hkept : u.readReg n = v := by
    calc u.readReg n = written.readReg n := performWords_readReg_of_not_written ws n hws _ u hu
      _ = (s.withRegs (regsAfter wr s)).readReg n := State.readReg_respond _ _ _ n
      _ = v := hwr
  obtain ⟨hregs, hanswer⟩ := hrd u
  refine ⟨u.respond v false, ?_, ?_, ?_⟩
  · simp only [performWords, performWord_encode, ← hwritten, performWords_append ws _ _ u hu,
      hregs, hanswer, hkept]
    rfl
  · rw [State.readReg_respond, hkept]
  · rw [State.respond_pending, List.getLast?_concat]

/-- Settles O20: the configuration registers keep their values along words that do not write them. -/
theorem configurationReadsBackWhatWasWritten :
    Obligations.ConfigurationReadsBackWhatWasWritten := by
  unfold Obligations.ConfigurationReadsBackWhatWasWritten
  constructor
  · intro v ws s hws
    refine performWords_write_then_read .POLY v (.polyWrite v) .polyRead ws s rfl ?_
      (fun _ => ⟨rfl, rfl⟩)
    intro w hw i hi hwritten
    obtain ⟨x, rfl⟩ := (writtenReg_eq_POLY_iff i).mp hwritten
    exact hws w hw x hi
  · intro v ws s hws
    refine performWords_write_then_read .INIT v (.initWrite v) .initRead ws s rfl ?_
      (fun _ => ⟨rfl, rfl⟩)
    intro w hw i hi hwritten
    obtain ⟨x, rfl⟩ := (writtenReg_eq_INIT_iff i).mp hwritten
    exact hws w hw x hi

end Sys2Proof.Machine
end

section
/-! The responses of single words (20_memory.md R44): the set R67 spells out with shifts and masks, read
through the fields that `decode` reads, and what a word of that set is answered. -/

namespace Sys2Proof.Machine

/-- A word shifted down to its opcode is the opcode field (R61). -/
theorem shiftRight_28_eq_opField (w : CmdWord) : w >>> 28 = (opField w).setWidth 32 := by
  ext j hj
  by_cases hfield : j < 4
  · simp [opField, hfield]
  · simp [opField, hfield, BitVec.getLsbD_of_ge w (28 + j) (by omega)]

/-- A run of one bits masks out a zero exactly where the field at those bits is zero. -/
theorem and_fieldMask_eq_zero_iff (w : CmdWord) (start len : Nat) (h : start + len ≤ 32) :
    w &&& ((BitVec.allOnes len).setWidth 32 <<< start) = 0#32 ↔ w.extractLsb' start len = 0#len := by
  constructor
  · intro hmask
    ext j hj
    have hbit : start + j < 32 := by omega
    have hlow : j < 32 := by omega
    simpa [hbit, hlow, hj] using congrArg (·.getLsbD (start + j)) hmask
  · intro hfield
    ext k hk
    by_cases hin : start ≤ k ∧ k - start < len
    · obtain ⟨hge, hlt⟩ := hin
      have hnot : ¬ k < start := by omega
      simpa [hlt, hnot, Nat.add_sub_cancel' hge, hk] using congrArg (·.getLsbD (k - start)) hfield
    · have hout : start ≤ k → len ≤ k - start := by omega
      simpa using fun _ => hout

/-- The must-be-zero masks of R67 test the must-be-zero bits of the three formats (R62, R63, R64). -/
theorem and_mask_ne_zero_eq_not_zeroBits (w : CmdWord) :
    (w &&& 0x0FFFFFFF#32 != 0#32) = !zeroBitsN w ∧
    (w &&& 0x0FFF0000#32 != 0#32) = !zeroBitsV w ∧
    (w &&& 0x0FE00000#32 != 0#32) = !zeroBitsD w :=
  have mask (start len : Nat) (h : start + len ≤ 32) :
      (w &&& ((BitVec.allOnes len).setWidth 32 <<< start) != 0#32) =
        !(w.extractLsb' start len == 0#len) :=
    congrArg not (Bool.eq_iff_iff.mpr (by simpa using and_fieldMask_eq_zero_iff w start len h))
  ⟨mask 0 28 (by decide), mask 16 12 (by decide), mask 21 7 (by decide)⟩

/-- The must-be-zero bits of a command's format are zero in the word (R62, R63, R64). -/
def formatZeroBits (i : Instr) (w : CmdWord) : Bool :=
  match i with
  | .crcInit | .crcRead | .polyRead | .initRead => zeroBitsN w
  | .polyWrite _ | .initWrite _ => zeroBitsV w
  | .crcByte _ => zeroBitsD w

/-- A word that decodes to a command has its opcode and the zero bits of its format (R69). -/
theorem fields_of_decode_command (w : CmdWord) (i : Instr) (h : decode w = .command i) :
    opField w = i.opcode ∧ formatZeroBits i w = true := by
  unfold decode at h
  split_ifs at h with hw hw hw hw hw hw hw
  all_goals
    obtain rfl := Decoded.command.inj h
    exact hw

/-- No word of a command is among those R67 calls illegal. -/
theorem illegalWord_eq_false_of_decode_command (w : CmdWord) (i : Instr) (h : decode w = .command i) :
    illegalWord w = false := by
  obtain ⟨hop, hzero⟩ := fields_of_decode_command w i h
  obtain ⟨hmaskN, hmaskV, hmaskD⟩ := and_mask_ne_zero_eq_not_zeroBits w
  simp only [illegalWord, shiftRight_28_eq_opField, hop, hmaskN, hmaskV, hmaskD]
  cases i with
  | crcInit | crcRead | polyRead | initRead =>
    have hN : zeroBitsN w = true := hzero
    simp [Instr.opcode, hN]
  | polyWrite _ | initWrite _ =>
    have hV : zeroBitsV w = true := hzero
    simp [Instr.opcode, hV]
  | crcByte _ =>
    have hD : zeroBitsD w = true := hzero
    simp [Instr.opcode, hD]

/-- `decode` makes ILLEGAL of every word that R67 calls illegal (R69). -/
theorem decode_of_illegalWord (w : CmdWord) (h : illegalWord w = true) : decode w = .illegal := by
  cases hd : decode w with
  | illegal => rfl
  | command i =>
    exact absurd h (Bool.eq_false_iff.mp (illegalWord_eq_false_of_decode_command w i hd))

/-- A word that R67 calls illegal is performed as IllegalCommand (60_exceptions.md R151). -/
theorem performWord_of_illegalWord (w : CmdWord) (s : State) (h : illegalWord w = true) :
    performWord w s = .next (s.illegalCommand w) := by
  simp only [performWord, decode_of_illegalWord w h]

/-- Settles O16: the answer of an encoded command is `answerOf`, that of an illegal word is
IllegalCommand's. -/
theorem responseOfEveryCommand : Obligations.ResponseOfEveryCommand := by
  unfold Obligations.ResponseOfEveryCommand
  constructor
  · intro i s
    refine ⟨_, performWord_encode i s, ?_⟩
    cases i <;> rfl
  · intro w s hw
    exact ⟨_, performWord_of_illegalWord w s hw, s.illegalCommand_pending w⟩

end Sys2Proof.Machine
end

section
/-! The block behind its handshake refines the abstract semantics of 20_memory.md R45: a simulation
between states related by the words accepted between them. -/

namespace Sys2Proof.Machine

/-- The simulation relation: `t` is `s` after `ws` in the abstract semantics, in its registers and in
its responses, whether these were delivered or still wait (R43, R45). -/
def FollowsBy (ws : List CmdWord) (s t : State) : Prop :=
  t.regs = (abstractRun s.regs ws).1 ∧
    t.delivered ++ t.pending = s.delivered ++ s.pending ++ (abstractRun s.regs ws).2

theorem FollowsBy.refl (s : State) : FollowsBy [] s s := ⟨rfl, (List.append_nil _).symm⟩

theorem FollowsBy.trans {ws ws' : List CmdWord} {s t u : State} (h : FollowsBy ws s t)
    (h' : FollowsBy ws' t u) : FollowsBy (ws ++ ws') s u := by
  obtain ⟨hregs, hresps⟩ := h
  obtain ⟨hregs', hresps'⟩ := h'
  rw [hregs] at hregs' hresps'
  rw [FollowsBy, abstractRun_append]
  exact ⟨hregs', by rw [hresps', hresps, List.append_assoc]⟩

/-- A schedule accepts the words of its first input, then those of the rest. -/
theorem acceptedWords_cons (i : HostInput) (ins : List HostInput) :
    acceptedWords (i :: ins) = acceptedWords [i] ++ acceptedWords ins := by
  cases i with
  | edge e => cases he : e.accepts <;> simp [acceptedWords, he]
  | clockStopped | powerCycled => rfl

/-- The simulation at one running edge, whether or not it accepts a command: the response side keeps
the queue of responses, and an accepted word appends its own. -/
theorem runningEdge_followsBy (e : Edge) (s t : State) (h : runningEdge e s = .next t) :
    FollowsBy (acceptedWords [.edge e]) s t := by
  obtain ⟨-, hregs, hdelivered, hpending, -⟩ := runningEdge_next e s t h
  rw [FollowsBy, hregs, hdelivered, hpending, ← List.append_assoc, State.responseSide_queue]
  cases he : e.accepts <;> simp [acceptedWords, he, abstractRun]

/-- The simulation at one step of a block that was reset, with what the next step needs. -/
theorem step_followsBy (e : Edge) (rest : List HostInput) (s t : State)
    (hins : s.inputs = .edge e :: rest) (hrst : e.rst = false) (hdone : s.resetDone = true)
    (h : step s = .next t) :
    FollowsBy (acceptedWords [.edge e]) s t ∧ t.inputs = rest ∧ t.resetDone = true := by
  rw [step_running s e rest hins hrst hdone] at h
  obtain ⟨-, -, -, -, -, -, hinputs, hreset⟩ := runningEdge_next e _ t h
  exact ⟨runningEdge_followsBy e { s with inputs := rest } t h, hinputs, hreset.trans hdone⟩

/-- The simulation along a schedule of running edges. -/
theorem run_followsBy (ins : List HostInput) :
    ∀ (rest : List HostInput) (s t : State), runningEdges ins = true → s.resetDone = true →
      s.inputs = ins ++ rest → Sys2Proof.core.run ins.length s = .next t →
      FollowsBy (acceptedWords ins) s t ∧ t.inputs = rest ∧ t.resetDone = true := by
  induction ins with
  | nil =>
    intro rest s t _ hdone hins hrun
    obtain rfl := Host.Outcome.next.inj hrun
    exact ⟨FollowsBy.refl s, hins, hdone⟩
  | cons i ins ih =>
    intro rest s t hedges hdone hins hrun
    cases i with
    | edge e =>
      obtain ⟨hrst, hedges⟩ : e.rst = false ∧ runningEdges ins = true := by
        simpa [runningEdges] using hedges
      obtain ⟨u, hstep, hrun⟩ := core_run_next _ s t hrun
      obtain ⟨hfirst, hins, hdone⟩ := step_followsBy e (ins ++ rest) s u hins hrst hdone hstep
      obtain ⟨hlater, hend⟩ := ih rest u t hedges hdone hins hrun
      rw [acceptedWords_cons]
      exact ⟨hfirst.trans hlater, hend⟩
    | clockStopped | powerCycled => cases hedges

/-- Settles O39, by the simulation along the schedule. -/
theorem handshakeRefinesTheAbstractSequence :
    Obligations.HandshakeRefinesTheAbstractSequence := by
  unfold Obligations.HandshakeRefinesTheAbstractSequence
  refine ⟨rfl, fun ins rest s t hedges hdone hins hrun => ?_⟩
  obtain ⟨⟨hregs, hresps⟩, hend⟩ := run_followsBy ins rest s t hedges hdone hins hrun
  exact ⟨hregs, hresps, hend⟩

end Sys2Proof.Machine
end

section
/-! The encoding as a whole (30_encoding.md R67, R72): ILLEGAL is exactly the set R67 spells out, and a
command word is its opcode and its operand side by side. -/

namespace Sys2Proof.Machine

/-- A word that has a command's opcode and the zero bits of its format is no illegal word (R69). -/
theorem decode_ne_illegal_of_fields (w : CmdWord) (i : Instr) (hop : opField w = i.opcode)
    (hzero : formatZeroBits i w = true) : decode w ≠ .illegal := by
  cases i with
  | crcInit | crcRead | polyRead | initRead | polyWrite _ | initWrite _ | crcByte _ =>
    rw [formatZeroBits] at hzero
    simp [decode, hop, Instr.opcode, hzero]

/-- The opcodes `0x1` to `0x7` are the commands' (R66). -/
theorem exists_opcode_eq (op : BitVec 4) (hne : op ≠ 0x0#4) (hlt : op < 0x8#4) :
    ∃ i : Instr, op = i.opcode := by
  have hop : op = 0x1#4 ∨ op = 0x2#4 ∨ op = 0x3#4 ∨ op = 0x4#4 ∨ op = 0x5#4 ∨ op = 0x6#4 ∨
      op = 0x7#4 := by bv_omega
  rcases hop with h | h | h | h | h | h | h
  exacts [⟨.crcInit, h⟩, ⟨.crcByte 0, h⟩, ⟨.crcRead, h⟩, ⟨.polyWrite 0, h⟩, ⟨.initWrite 0, h⟩,
    ⟨.polyRead, h⟩, ⟨.initRead, h⟩]

/-- R67 calls a word illegal when its opcode is no command's. -/
theorem illegalWord_of_opField (w : CmdWord) (h : opField w = 0x0#4 ∨ 0x8#4 ≤ opField w) :
    illegalWord w = true := by
  have hop : w >>> 28 = 0x0#32 ∨ 0x8#32 ≤ w >>> 28 := by
    rw [shiftRight_28_eq_opField]
    bv_omega
  rcases hop with h | h <;> simp [illegalWord, h]

/-- Under a command's opcode, R67 calls a word illegal exactly when a must-be-zero bit of the
command's format is set. -/
theorem illegalWord_eq_not_formatZeroBits (w : CmdWord) (i : Instr) (hop : opField w = i.opcode) :
    illegalWord w = !formatZeroBits i w := by
  obtain ⟨hmaskN, hmaskV, hmaskD⟩ := and_mask_ne_zero_eq_not_zeroBits w
  simp only [illegalWord, shiftRight_28_eq_opField, hop, hmaskN, hmaskV, hmaskD]
  cases i with
  | crcInit | crcRead | polyRead | initRead | polyWrite _ | initWrite _ | crcByte _ =>
    simp [Instr.opcode, formatZeroBits]

/-- R67 leaves out no word that `decode` makes ILLEGAL: its opcode is no command's, or it breaks the
format of the command that has its opcode. -/
theorem illegalWord_of_decode_illegal (w : CmdWord) (h : decode w = .illegal) :
    illegalWord w = true := by
  by_cases hop : opField w = 0x0#4 ∨ 0x8#4 ≤ opField w
  · exact illegalWord_of_opField w hop
  · obtain ⟨hne, hlt⟩ := not_or.mp hop
    obtain ⟨i, hi⟩ := exists_opcode_eq (opField w) hne (BitVec.not_le.mp hlt)
    have hset : formatZeroBits i w = false :=
      Bool.eq_false_iff.mpr fun hzero => decode_ne_illegal_of_fields w i hi hzero h
    rw [illegalWord_eq_not_formatZeroBits w i hi, hset, Bool.not_false]

/-- Settles O5: `decode` and R67 agree on the illegal words, and IllegalCommand only adds its
response. -/
theorem illegalWordsAndTheirEffect : Obligations.IllegalWordsAndTheirEffect := by
  unfold Obligations.IllegalWordsAndTheirEffect
  exact ⟨fun w => ⟨illegalWord_of_decode_illegal w, decode_of_illegalWord w⟩,
    performWord_of_illegalWord, by decide⟩

/-- An operand field wide enough for its value holds that value (R63, R64). -/
theorem operandBits_toNat_of_setWidth (i : Instr) {n : Nat} (x : BitVec n)
    (hx : i.operandBits = x.setWidth 32) (hn : n ≤ 32) : i.operandBits.toNat = x.toNat := by
  rw [hx, BitVec.toNat_setWidth_of_le hn]

/-- Every operand lies below the opcode field (R61 to R64). -/
theorem operandBits_toNat_lt (i : Instr) : i.operandBits.toNat < 2 ^ 28 := by
  refine Nat.lt_pow_two_of_testBit _ fun k hk => ?_
  rw [BitVec.testBit_toNat]
  by_cases hbit : k < 32
  · rw [BitVec.getLsbD_eq_getElem hbit, operandBits_getElem_high i k hbit (by omega)]
  · exact BitVec.getLsbD_of_ge _ k (by omega)

/-- A command word as a number: opcode and operand do not overlap, so the `|` of R72 is a sum. -/
theorem encode_toNat (i : Instr) :
    (encode i).toNat = i.opcode.toNat * 2 ^ 28 + i.operandBits.toNat := by
  have hop : (i.opcode.setWidth 32 <<< 28).toNat = i.opcode.toNat <<< 28 := by
    have hlt : i.opcode.toNat < 2 ^ 4 := i.opcode.isLt
    rw [BitVec.toNat_shiftLeft, BitVec.toNat_setWidth_of_le (by decide), Nat.shiftLeft_eq,
      Nat.mod_eq_of_lt (by omega)]
  calc (encode i).toNat = i.opcode.toNat <<< 28 ||| i.operandBits.toNat := by
        rw [encode, BitVec.toNat_or, hop]
    _ = i.opcode.toNat <<< 28 + i.operandBits.toNat :=
        (Nat.shiftLeft_add_eq_or_of_lt (operandBits_toNat_lt i) _).symm
    _ = i.opcode.toNat * 2 ^ 28 + i.operandBits.toNat := by rw [Nat.shiftLeft_eq]

/-- Settles O6: a command word is the number of its opcode and its operand. -/
theorem encodingIsOpcodeThenOperand : Obligations.EncodingIsOpcodeThenOperand := by
  unfold Obligations.EncodingIsOpcodeThenOperand
  refine ⟨fun i => ?_, by decide, by decide, by decide⟩
  rw [encode_toNat i]
  congr 1
  cases i with
  | crcByte cp => exact operandBits_toNat_of_setWidth (.crcByte cp) cp rfl (by decide)
  | polyWrite val => exact operandBits_toNat_of_setWidth (.polyWrite val) val rfl (by decide)
  | initWrite val => exact operandBits_toNat_of_setWidth (.initWrite val) val rfl (by decide)
  | crcInit | crcRead | polyRead | initRead => rfl

end Sys2Proof.Machine
end

section
/-! The pseudo-commands of the assembler (30_encoding.md R71). -/

namespace Sys2Proof.Machine

/-- A statement that passes R70's checks assembles to the encodings of its commands. -/
theorem assemble_of_wellFormed (seg : Segmentation) (st : AsmStmt) (h : st.wellFormed = true) :
    assemble seg st = some ((expand seg st).map encode) := if_pos h

/-- A register value written as a number is an operand R70 takes. -/
theorem fitsVal_toNat (v : Word) : (AsmOperand.number v.toNat).fitsVal = true :=
  decide_eq_true v.isLt

/-- Settles O58: both pseudo-commands are well formed, and their words are those of ordinary
commands. -/
theorem pseudoCommandsExpand : Obligations.PseudoCommandsExpand := by
  unfold Obligations.PseudoCommandsExpand
  have str (seg : Segmentation) (text : Text) : assemble seg (.crcStr text) =
      some ((chars seg text).map fun c => encode (.crcByte c)) := by
    rw [assemble_of_wellFormed seg (.crcStr text) rfl, expand, List.map_map]
    rfl
  refine ⟨fun seg poly init => ?_, str, fun seg => str seg []⟩
  have hfits : (AsmStmt.crcStart (.number poly.toNat) (.number init.toNat)).wellFormed = true := by
    simp [AsmStmt.wellFormed, fitsVal_toNat]
  rw [assemble_of_wellFormed seg _ hfits]
  simp [expand, AsmOperand.value]

end Sys2Proof.Machine
end

section
/-! The bit step seen one bit at a time (40_crc_datapath.md R82), and what follows for `absorb` from its
linearity over GF(2). -/

namespace Sys2Proof.Machine

/-- The bit step without its case distinction: the shift, then the feedback (R82). -/
theorem step1_eq_shift_xor_feedback (r p : Word) :
    step1 r p = (r <<< 1) ^^^ (if r.getLsbD 15 then p else 0#16) := by
  cases h : r.getLsbD 15 with
  | true => simpa using step1_of_top_set r p h
  | false => simpa using step1_of_top_clear r p h

/-- A bit of the result is the bit below it, fed back where bit 15 was set (R82). -/
theorem getLsbD_step1 (r p : Word) (i : Nat) (hi : i < 16) :
    (step1 r p).getLsbD i =
      ((decide (0 < i) && r.getLsbD (i - 1)) ^^ (r.getLsbD 15 && p.getLsbD i)) := by
  have hpos : (!decide (i < 1)) = decide (0 < i) := by simp [Nat.pos_iff_ne_zero]
  rw [step1_eq_shift_xor_feedback, BitVec.getLsbD_xor, BitVec.getLsbD_shiftLeft, hpos]
  cases r.getLsbD 15 <;> simp [hi]

/-- The byte is placed above eight zero bits (R81). -/
theorem setWidth_shiftLeft_8_eq_append (b : Byte) : b.setWidth 16 <<< 8 = b ++ 0x00#8 := by
  refine BitVec.eq_of_getLsbD_eq fun i hi => ?_
  have happend : (b ++ 0x00#8).getLsbD i = if i < 8 then (0x00#8).getLsbD i else b.getLsbD (i - 8) :=
    BitVec.getLsbD_append
  rw [happend]
  by_cases hlow : i < 8 <;> simp [hlow, hi]

/-- The register with the placed byte, bit by bit (R81). -/
theorem getLsbD_inject (r : Word) (b : Byte) (i : Nat) (hi : i < 16) :
    (inject r b).getLsbD i = (r.getLsbD i ^^ (!decide (i < 8) && b.getLsbD (i - 8))) := by
  simp [inject, hi]

/-- Settles O22: the placed byte meets bits 15 to 8 of the register, its zero bits the others. -/
theorem injectXorsTheHighByte : Obligations.InjectXorsTheHighByte := by
  unfold Obligations.InjectXorsTheHighByte
  intro r b
  refine ⟨by rw [inject, setWidth_shiftLeft_8_eq_append], ?_, ?_⟩
  · refine BitVec.eq_of_getLsbD_eq fun i hi => ?_
    simp [hi, getLsbD_inject r b (8 + i) (by omega)]
  · refine BitVec.eq_of_getLsbD_eq fun i hi => ?_
    simp [hi, getLsbD_inject r b i (by omega)]

/-- Settles O23: the bits of a step are `getLsbD_step1`; with the XOR first, the polynomial would be
shifted too. -/
theorem stepOneBitByBit : Obligations.StepOneBitByBit := by
  unfold Obligations.StepOneBitByBit
  exact ⟨getLsbD_step1, 0x8000#16, 0x1021#16, by decide, by decide⟩

/-- Bit steps as an iterated function, the form in which library lemmas apply to them. -/
theorem bitSteps_eq_iterate (n : Nat) : ∀ r p : Word, bitSteps n r p = (fun t => step1 t p)^[n] r := by
  induction n with
  | zero => intro r p; rfl
  | succ n ih => intro r p; rw [bitSteps_succ, ih, Function.iterate_succ_apply]

/-- Settles O24. -/
theorem absorbIsOneInjectAndEightSteps : Obligations.AbsorbIsOneInjectAndEightSteps := by
  unfold Obligations.AbsorbIsOneInjectAndEightSteps
  intro r p b
  rw [absorb_eq, bitSteps_eq_iterate]

theorem step1_xor (r1 r2 p : Word) : step1 (r1 ^^^ r2) p = step1 r1 p ^^^ step1 r2 p := by
  refine BitVec.eq_of_getLsbD_eq fun i hi => ?_
  simp only [BitVec.getLsbD_xor, getLsbD_step1 _ _ i hi, Bool.and_xor_distrib_left,
    Bool.and_xor_distrib_right, Bool.xor_assoc, Bool.xor_left_comm]

theorem bitSteps_xor (n : Nat) : ∀ r1 r2 p : Word,
    bitSteps n (r1 ^^^ r2) p = bitSteps n r1 p ^^^ bitSteps n r2 p := by
  induction n with
  | zero => intro r1 r2 p; rfl
  | succ n ih => intro r1 r2 p; rw [bitSteps_succ, step1_xor, ih, ← bitSteps_succ, ← bitSteps_succ]

theorem inject_xor (r1 r2 : Word) (b1 b2 : Byte) :
    inject (r1 ^^^ r2) (b1 ^^^ b2) = inject r1 b1 ^^^ inject r2 b2 := by
  simp only [inject, BitVec.setWidth_xor, BitVec.shiftLeft_xor_distrib]
  ac_rfl

theorem absorb_xor (p r1 r2 : Word) (b1 b2 : Byte) :
    absorb (r1 ^^^ r2) p (b1 ^^^ b2) = absorb r1 p b1 ^^^ absorb r2 p b2 := by
  rw [absorb_eq, inject_xor, bitSteps_xor, ← absorb_eq, ← absorb_eq]

/-- Settles O27: the linearity of one bit step carries over to eight of them, and so does that of
`inject`. -/
theorem absorbIsLinear : Obligations.AbsorbIsLinear := by
  unfold Obligations.AbsorbIsLinear
  refine ⟨step1_xor, absorb_xor, fun p r b => ?_⟩
  simpa using absorb_xor p r 0x0000#16 0x00#8 b

/-- While only zeros reach bit 15 there is no feedback: the register is shifted. -/
theorem bitSteps_of_top_bits_clear (n : Nat) : ∀ r p : Word,
    (∀ i, 16 ≤ i + n → r.getLsbD i = false) → bitSteps n r p = r <<< n := by
  induction n with
  | zero => intro r p _; exact (BitVec.shiftLeft_zero r).symm
  | succ n ih =>
    intro r p h
    have hshift : ∀ i, 16 ≤ i + n → (r <<< 1).getLsbD i = false := fun i hi => by
      rw [BitVec.getLsbD_shiftLeft, h (i - 1) (by omega), Bool.and_false]
    rw [bitSteps_succ, step1_of_top_clear r p (h 15 (by omega)), ih _ p hshift,
      ← BitVec.shiftLeft_add, Nat.add_comm]

/-- Without a polynomial there is nothing to feed back. -/
theorem bitSteps_zero_poly (n : Nat) : ∀ r : Word, bitSteps n r 0x0000#16 = r <<< n := by
  induction n with
  | zero => exact fun r => (BitVec.shiftLeft_zero r).symm
  | succ n ih =>
    intro r
    have hstep : step1 r 0x0000#16 = r <<< 1 := by simp [step1_eq_shift_xor_feedback]
    rw [bitSteps_succ, hstep, ih, ← BitVec.shiftLeft_add, Nat.add_comm]

/-- A register shifted by a byte keeps its low byte, above zeros. -/
theorem shiftLeft_8_eq_append (r : Word) : r <<< 8 = r.extractLsb' 0 8 ++ 0x00#8 := by
  rw [← setWidth_shiftLeft_8_eq_append]
  refine BitVec.eq_of_getLsbD_eq fun i hi => ?_
  by_cases hlow : i < 8
  · simp [hlow]
  · simp [hlow, show i - 8 < 8 by omega, show i - 8 < 16 by omega]

/-- `inject` changes nothing that a shift by a byte keeps. -/
theorem inject_shiftLeft_8 (r : Word) (b : Byte) : inject r b <<< 8 = r <<< 8 := by
  have hgone : b.setWidth 16 <<< 8 <<< 8 = 0x0000#16 := by
    rw [← BitVec.shiftLeft_add, BitVec.shiftLeft_eq_zero (by decide)]
  rw [inject, BitVec.shiftLeft_xor_distrib, hgone, BitVec.xor_zero]

/-- Without feedback the eight bit steps shift out all that `inject` changed. -/
theorem absorb_zero_poly (r : Word) (b : Byte) :
    absorb r 0x0000#16 b = r.extractLsb' 0 8 ++ 0x00#8 := by
  rw [absorb_eq, bitSteps_zero_poly, inject_shiftLeft_8, shiftLeft_8_eq_append]

/-- Settles O29. -/
theorem zeroPolynomialShiftsTheByteOut : Obligations.ZeroPolynomialShiftsTheByteOut := by
  unfold Obligations.ZeroPolynomialShiftsTheByteOut
  exact absorb_zero_poly

/-- A byte equal to the register's high byte cancels it, so nothing is fed back. -/
theorem absorb_high_byte (v p : Word) : absorb v p (v.extractLsb' 8 8) = v <<< 8 := by
  have hclear : ∀ i, 16 ≤ i + 8 → (inject v (v.extractLsb' 8 8)).getLsbD i = false := fun i hi => by
    by_cases hbit : i < 16
    · simp [getLsbD_inject _ _ i hbit, show ¬ i < 8 by omega, show i - 8 < 8 by omega,
        show 8 + (i - 8) = i by omega]
    · exact BitVec.getLsbD_of_ge _ i (by omega)
  rw [absorb_eq, bitSteps_of_top_bits_clear 8 _ p hclear, inject_shiftLeft_8]

theorem absorb_zero (p : Word) : absorb 0x0000#16 p 0x00#8 = 0x0000#16 :=
  absorb_high_byte 0x0000#16 p

/-- Settles O30: each byte of `v` cancels the high byte it meets, and two shifts by a byte leave
nothing. -/
theorem residueIsZero : Obligations.ResidueIsZero := by
  unfold Obligations.ResidueIsZero
  intro p v
  have hlow : v.extractLsb' 0 8 = (v <<< 8).extractLsb' 8 8 := by
    refine BitVec.eq_of_getLsbD_eq fun i hi => ?_
    simp only [BitVec.getLsbD_extractLsb', BitVec.getLsbD_shiftLeft]
    simp [hi, show 8 + i < 16 by omega]
  rw [absorb_high_byte, hlow, absorb_high_byte, ← BitVec.shiftLeft_add,
    BitVec.shiftLeft_eq_zero (by decide)]

end Sys2Proof.Machine
end

section
/-! The bit-serial form of the datapath (40_crc_datapath.md R100). -/

namespace Sys2Proof.Machine

/-- A pass of the serial loop for data bit `n` is a bit step on a register that already holds the data
bits from `n` down; the step moves the lower ones up to where the next pass looks for them. -/
theorem step1_xor_data (r p : Word) (b : Byte) (n : Nat) (hn : n < 16) :
    step1 (r ^^^ (b.setWidth 16 <<< (15 - n))) p =
      serialStep r p b n ^^^ (b.setWidth 16 <<< (16 - n)) := by
  have htop : (b.setWidth 16 <<< (15 - n)).getLsbD 15 = b.getLsbD n := by
    simp [show ¬ 15 < 15 - n by omega, show 15 - (15 - n) = n by omega]
  rw [step1_eq_shift_xor_feedback, BitVec.getLsbD_xor, htop, BitVec.shiftLeft_xor_distrib,
    ← BitVec.shiftLeft_add, show 15 - n + 1 = 16 - n by omega, serialStep]
  ac_rfl

/-- The serial loop gives the data bits one at a time; giving those still to come all at once, before
the bit steps, gives the same. -/
theorem serialSteps_eq_bitSteps (n : Nat) : ∀ (r p : Word) (b : Byte), n ≤ 16 →
    serialSteps n r p b = bitSteps n (r ^^^ (b.setWidth 16 <<< (16 - n))) p := by
  induction n with
  | zero => intro r p b _; simp [serialSteps, bitSteps]
  | succ n ih =>
    intro r p b hn
    rw [serialSteps, ih _ p b (by omega), bitSteps_succ, show 16 - (n + 1) = 15 - n by omega,
      step1_xor_data r p b n (by omega)]

/-- Settles O33: with all eight data bits to come, giving them at once is `inject`. -/
theorem serialFormEqualsAbsorb : Obligations.SerialFormEqualsAbsorb := by
  unfold Obligations.SerialFormEqualsAbsorb
  exact fun r p b => serialSteps_eq_bitSteps 8 r p b (by decide)

end Sys2Proof.Machine
end

section
/-! For which polynomials a bit step can be undone (40_crc_datapath.md R99). -/

namespace Sys2Proof.Machine

/-- Bit 0 of a bit step is fed back and nothing else: the shift leaves it 0. -/
theorem getLsbD_step1_zero (r p : Word) :
    (step1 r p).getLsbD 0 = (r.getLsbD 15 && p.getLsbD 0) := by
  rw [getLsbD_step1 r p 0 (by decide), decide_eq_false (Nat.lt_irrefl 0), Bool.false_and,
    Bool.false_xor]

/-- The inverse of R99, bit by bit: bit 0 goes back to bit 15, and where it is set the feedback is
taken away. -/
theorem getLsbD_unstep1 (s p : Word) (i : Nat) (hi : i < 16) :
    (unstep1 s p).getLsbD i =
      if i = 15 then s.getLsbD 0 else s.getLsbD (i + 1) ^^ (s.getLsbD 0 && p.getLsbD (i + 1)) := by
  have htop : (0x8000#16).getLsbD i = decide (i = 15) := by
    revert i; decide
  unfold unstep1
  by_cases h15 : i = 15
  · subst h15
    cases h0 : s.getLsbD 0 <;> simp
  · cases h0 : s.getLsbD 0 <;> simp [htop, h15, Nat.add_comm]

theorem unstep1_step1 (p r : Word) (hp : p.getLsbD 0 = true) : unstep1 (step1 r p) p = r := by
  refine BitVec.eq_of_getLsbD_eq fun i hi => ?_
  have h0 : (step1 r p).getLsbD 0 = r.getLsbD 15 := by rw [getLsbD_step1_zero, hp, Bool.and_true]
  rw [getLsbD_unstep1 _ _ i hi, h0]
  by_cases h15 : i = 15
  · simp [h15]
  · simp [h15, getLsbD_step1 r p (i + 1) (by omega)]

theorem step1_unstep1 (p r : Word) (hp : p.getLsbD 0 = true) : step1 (unstep1 r p) p = r := by
  refine BitVec.eq_of_getLsbD_eq fun i hi => ?_
  have h15 : (unstep1 r p).getLsbD 15 = r.getLsbD 0 := by
    rw [getLsbD_unstep1 r p 15 (by decide), if_pos rfl]
  rw [getLsbD_step1 _ _ i hi, h15]
  cases i with
  | zero => simp [hp]
  | succ j => simp [getLsbD_unstep1 r p j (by omega), show j ≠ 15 by omega]

theorem step1_bijective (p : Word) (hp : p.getLsbD 0 = true) :
    Function.Bijective (fun r => step1 r p) :=
  Function.bijective_iff_has_inverse.mpr
    ⟨fun s => unstep1 s p, fun r => unstep1_step1 p r hp, fun r => step1_unstep1 p r hp⟩

/-- Only an odd polynomial lets a bit step reach an odd value. -/
theorem step1_bijective_iff (p : Word) :
    Function.Bijective (fun r => step1 r p) ↔ p.getLsbD 0 = true := by
  refine ⟨fun hbij => ?_, step1_bijective p⟩
  obtain ⟨r, hr⟩ := hbij.surjective 0x0001#16
  have hodd : (r.getLsbD 15 && p.getLsbD 0) = true := by
    rw [← getLsbD_step1_zero]
    exact congrArg (·.getLsbD 0) hr
  exact (Bool.and_eq_true_iff.mp hodd).2

/-- With an even polynomial a bit step reaches the even values, each by a plain shift. -/
theorem range_step1_of_even (p : Word) (hp : p.getLsbD 0 = false) :
    Set.range (fun r => step1 r p) = { v : Word | v.getLsbD 0 = false } := by
  ext v
  constructor
  · rintro ⟨r, rfl⟩
    show (step1 r p).getLsbD 0 = false
    rw [getLsbD_step1_zero, hp, Bool.and_false]
  · intro hv
    refine ⟨v >>> 1, BitVec.eq_of_getLsbD_eq fun i hi => ?_⟩
    have h15 : (v >>> 1).getLsbD 15 = false := by simp
    rw [getLsbD_step1 _ _ i hi, h15]
    cases i with
    | zero => simpa using hv.symm
    | succ j => simp [Nat.add_comm]

/-- The even values are the 15-bit values, shifted. -/
theorem range_shiftLeft_one :
    Set.range (fun x : BitVec 15 => (x.setWidth 16 <<< 1 : Word)) =
      { v : Word | v.getLsbD 0 = false } := by
  ext v
  constructor
  · rintro ⟨x, rfl⟩
    simp
  · intro hv
    refine ⟨v.extractLsb' 1 15, BitVec.eq_of_getLsbD_eq fun i hi => ?_⟩
    cases i with
    | zero => simpa using hv.symm
    | succ j => simp [Nat.add_comm, show j < 15 by omega, hi]

theorem setWidth_shiftLeft_one_injective :
    Function.Injective (fun x : BitVec 15 => (x.setWidth 16 <<< 1 : Word)) := fun x y hxy => by
  refine BitVec.eq_of_getLsbD_eq fun i hi => ?_
  simpa [hi, show i + 1 < 16 by omega] using congrArg (·.getLsbD (i + 1)) hxy

/-- There are as many even values as 15-bit values. -/
theorem card_even_words : Nat.card { v : Word | v.getLsbD 0 = false } = 2 ^ 15 := by
  rw [← range_shiftLeft_one,
    ← Nat.card_congr (Equiv.ofInjective _ setWidth_shiftLeft_one_injective),
    Nat.card_congr BitVec.equivFin.toEquiv, Nat.card_fin]

theorem inject_bijective (b : Byte) : Function.Bijective (fun r => inject r b) := by
  have hself : Function.Involutive (fun r => inject r b) := fun r => by
    simp [inject]
  exact hself.bijective

theorem absorb_bijective (p : Word) (hp : p.getLsbD 0 = true) (b : Byte) :
    Function.Bijective (fun r => absorb r p b) := by
  have hsteps : Function.Bijective (fun r => bitSteps 8 r p) := by
    simpa only [bitSteps_eq_iterate] using (step1_bijective p hp).iterate 8
  exact hsteps.comp (inject_bijective b)

/-- Settles O32: an odd polynomial marks in bit 0 whether it was fed back, an even one does not. -/
theorem stepOneIsABijectionForOddPolynomials :
    Obligations.StepOneIsABijectionForOddPolynomials := by
  unfold Obligations.StepOneIsABijectionForOddPolynomials
  refine ⟨step1_bijective_iff, fun p r hp => ⟨unstep1_step1 p r hp, step1_unstep1 p r hp⟩,
    fun p hp => ?_, absorb_bijective 0x1021#16 (by decide)⟩
  have hrange := range_step1_of_even p hp
  exact ⟨hrange, by rw [hrange, card_even_words]⟩

end Sys2Proof.Machine
end

section
/-! The source's algorithm on unbounded integers and the 16-bit datapath (40_crc_datapath.md R80, R91,
R92): reading off the low 16 bits of a register, at any moment, is the simulation between them. -/

namespace Sys2Proof.Machine

/-- Truncating a register to at least 16 bits does not reach its low 16 bits (R92). -/
theorem ofNat_mod_two_pow (width r : Nat) (hw : 16 ≤ width) :
    BitVec.ofNat 16 (r % 2 ^ width) = BitVec.ofNat 16 r :=
  BitVec.eq_of_toNat_eq (by simpa using Nat.mod_mod_of_dvd r (Nat.pow_dvd_pow 2 hw))

/-- Shifting an unbounded register shifts its low 16 bits. -/
theorem ofNat_shiftLeft (r k : Nat) : BitVec.ofNat 16 (r <<< k) = BitVec.ofNat 16 r <<< k :=
  BitVec.eq_of_toNat_eq (by simp [Nat.shiftLeft_eq])

/-- The bit that decides over the feedback lies within the low 16 bits. -/
theorem getLsbD_ofNat_top (r : Nat) : (BitVec.ofNat 16 r).getLsbD 15 = r.testBit 15 := by
  rw [BitVec.getLsbD_ofNat, decide_eq_true (by decide), Bool.true_and]

/-- The simulation at one bit step. -/
theorem ofNat_wideStep (r poly : Nat) :
    BitVec.ofNat 16 (wideStep r poly) = step1 (BitVec.ofNat 16 r) (BitVec.ofNat 16 poly) := by
  unfold wideStep step1
  rw [getLsbD_ofNat_top]
  split
  · rw [BitVec.ofNat_xor, ofNat_shiftLeft]
  · rw [ofNat_shiftLeft]

theorem ofNat_wideSteps (n : Nat) : ∀ r poly : Nat, BitVec.ofNat 16 (wideSteps n r poly) =
    bitSteps n (BitVec.ofNat 16 r) (BitVec.ofNat 16 poly) := by
  induction n with
  | zero => exact fun _ _ => rfl
  | succ n ih => intro r poly; rw [wideSteps, ih, ofNat_wideStep, ← bitSteps_succ]

/-- Of a character the low 16 bits of the register see the low byte only (R91). -/
theorem ofNat_xor_shiftLeft_8 (r c : Nat) :
    BitVec.ofNat 16 (r ^^^ (c <<< 8)) = inject (BitVec.ofNat 16 r) (BitVec.ofNat 8 c) := by
  have hbyte : BitVec.ofNat 16 c <<< 8 = (BitVec.ofNat 8 c).setWidth 16 <<< 8 := by
    refine BitVec.eq_of_getLsbD_eq fun i hi => ?_
    simp only [BitVec.getLsbD_shiftLeft, BitVec.getLsbD_setWidth, BitVec.getLsbD_ofNat]
    simp [show i - 8 < 8 by omega, show i - 8 < 16 by omega]
  rw [BitVec.ofNat_xor, ofNat_shiftLeft, hbyte, inject]

/-- The simulation at one character. -/
theorem ofNat_wideAbsorb (r poly c : Nat) : BitVec.ofNat 16 (wideAbsorb r poly c) =
    absorb (BitVec.ofNat 16 r) (BitVec.ofNat 16 poly) (BitVec.ofNat 8 c) := by
  rw [wideAbsorb, ofNat_wideSteps, ofNat_xor_shiftLeft_8, ← absorb_eq]

/-- The simulation at a payload. -/
theorem ofNat_wideAbsorbAll (cps : List Nat) : ∀ r poly : Nat,
    BitVec.ofNat 16 (wideAbsorbAll r poly cps) =
      absorbAll (BitVec.ofNat 16 r) (BitVec.ofNat 16 poly) (cps.map (BitVec.ofNat 8)) := by
  induction cps with
  | nil => exact fun _ _ => rfl
  | cons c cps ih => intro r poly; rw [wideAbsorbAll, ih, ofNat_wideAbsorb]; rfl

/-- `CRC_REF` is the datapath's fold over the low bytes (R91, R92). -/
theorem crcRef_eq_absorbAll (cps : List Nat) (poly init : Word) :
    crcRef cps poly init = absorbAll init poly (cps.map (BitVec.ofNat 8)) := by
  rw [crcRef, ofNat_mod_two_pow 16 _ le_rfl, ofNat_wideAbsorbAll, BitVec.ofNat_toNat,
    BitVec.ofNat_toNat, BitVec.setWidth_eq, BitVec.setWidth_eq]

/-- A truncated bit step agrees with the unbounded one in the low 16 bits. -/
theorem ofNat_truncStep (width r poly : Nat) (hw : 16 ≤ width) :
    BitVec.ofNat 16 (truncStep width r poly) = step1 (BitVec.ofNat 16 r) (BitVec.ofNat 16 poly) := by
  rw [← ofNat_wideStep, truncStep, wideStep]
  split
  · rw [ofNat_mod_two_pow _ _ hw, BitVec.ofNat_xor, BitVec.ofNat_xor, ofNat_mod_two_pow _ _ hw]
  · rw [ofNat_mod_two_pow _ _ hw]

theorem ofNat_truncSteps (width : Nat) (hw : 16 ≤ width) (n : Nat) : ∀ r poly : Nat,
    BitVec.ofNat 16 (truncSteps width n r poly) =
      bitSteps n (BitVec.ofNat 16 r) (BitVec.ofNat 16 poly) := by
  induction n with
  | zero => exact fun _ _ => rfl
  | succ n ih => intro r poly; rw [truncSteps, ih, ofNat_truncStep _ _ _ hw, ← bitSteps_succ]

theorem ofNat_truncAbsorb (width r poly c : Nat) (hw : 16 ≤ width) :
    BitVec.ofNat 16 (truncAbsorb width r poly c) =
      absorb (BitVec.ofNat 16 r) (BitVec.ofNat 16 poly) (BitVec.ofNat 8 c) := by
  rw [truncAbsorb, ofNat_truncSteps width hw, ofNat_mod_two_pow _ _ hw, BitVec.ofNat_xor,
    ofNat_mod_two_pow _ _ hw, ← BitVec.ofNat_xor, ofNat_xor_shiftLeft_8, ← absorb_eq]

theorem ofNat_truncAbsorbAll (width : Nat) (hw : 16 ≤ width) (cps : List Nat) : ∀ r poly : Nat,
    BitVec.ofNat 16 (truncAbsorbAll width r poly cps) =
      absorbAll (BitVec.ofNat 16 r) (BitVec.ofNat 16 poly) (cps.map (BitVec.ofNat 8)) := by
  induction cps with
  | nil => exact fun _ _ => rfl
  | cons c cps ih => intro r poly; rw [truncAbsorbAll, ih, ofNat_truncAbsorb _ _ _ _ hw]; rfl

/-- Settles O25: both forms of the source's algorithm simulate the datapath, so they agree. -/
theorem wideAlgorithmEqualsDatapath : Obligations.WideAlgorithmEqualsDatapath := by
  unfold Obligations.WideAlgorithmEqualsDatapath
  refine fun cps poly init => ⟨crcRef_eq_absorbAll cps poly init, fun width hw => ?_⟩
  rw [crcRefTrunc, crcRef, ofNat_mod_two_pow 16 _ le_rfl, ofNat_mod_two_pow 16 _ le_rfl,
    ofNat_truncAbsorbAll width hw, ofNat_wideAbsorbAll]

/-- Masking a code point to eight bits keeps its low byte. -/
theorem ofNat_and_0xFF (c : Nat) : BitVec.ofNat 8 (c &&& 0xFF) = BitVec.ofNat 8 c := by
  rw [BitVec.ofNat_and]
  exact BitVec.and_allOnes

/-- Settles O26: the datapath takes a character by its low byte, which the mask keeps. -/
theorem highCodePointBitsHaveNoEffect : Obligations.HighCodePointBitsHaveNoEffect := by
  unfold Obligations.HighCodePointBitsHaveNoEffect
  constructor
  · intro r p c
    have hlow : BitVec.ofNat 16 (wideAbsorb r p c) = BitVec.ofNat 16 (wideAbsorb r p (c &&& 0xFF)) := by
      rw [ofNat_wideAbsorb, ofNat_wideAbsorb, ofNat_and_0xFF]
    simpa using congrArg BitVec.toNat hlow
  · intro cps poly init
    rw [crcRef_eq_absorbAll, crcRef_eq_absorbAll, List.map_map]
    congr 1
    exact List.map_congr_left fun c _ => (ofNat_and_0xFF c).symm

/-- Zero bytes keep a zero register at zero. -/
theorem absorbAll_replicate_zero (p : Word) (n : Nat) :
    absorbAll 0x0000#16 p (List.replicate n 0x00#8) = 0x0000#16 := by
  induction n with
  | zero => rfl
  | succ n ih => rw [List.replicate_succ, absorbAll, absorb_zero, ih]

/-- Settles O28. -/
theorem zeroRegisterAndZeroCharactersGiveZero :
    Obligations.ZeroRegisterAndZeroCharactersGiveZero := by
  unfold Obligations.ZeroRegisterAndZeroCharactersGiveZero
  refine ⟨absorb_zero, fun n p => ?_⟩
  rw [crcRef_eq_absorbAll, List.map_replicate]
  exact absorbAll_replicate_zero p n

end Sys2Proof.Machine
end

section
/-! The datapath commands (40_crc_datapath.md R84 to R86), alone and in sequence (R93, R98, R138). -/

namespace Sys2Proof.Machine

/-- Under a command's opcode, a set bit among the zero bits of its format makes a word ILLEGAL (R67). -/
theorem decode_illegal_of_zeroBits_set (i : Instr) (w : CmdWord) (hop : opField w = i.opcode)
    (hset : formatZeroBits i w = false) : decode w = .illegal :=
  decode_of_illegalWord w (by rw [illegalWord_eq_not_formatZeroBits w i hop, hset, Bool.not_false])

/-- Settles O8: a second CRC_INIT finds the INIT that the first one left. -/
theorem crcInitLoadsCrcFromInit : Obligations.CrcInitLoadsCrcFromInit := by
  unfold Obligations.CrcInitLoadsCrcFromInit
  obtain ⟨hword, -⟩ := encode_words
  refine ⟨hword, fun _ => rfl, fun w hop hset => ?_, fun s t u ht hu => ?_, fun t ht => ?_⟩
  · exact decode_illegal_of_zeroBits_set .crcInit w hop (beq_eq_false_iff_ne.mpr hset)
  · obtain rfl := Host.Outcome.next.inj ht
    obtain rfl := Host.Outcome.next.inj hu
    rfl
  · obtain rfl := Host.Outcome.next.inj ht
    rfl

/-- Settles O9: the command is one `absorb` of the operand's low byte. -/
theorem crcByteAbsorbsTheLowByte : Obligations.CrcByteAbsorbsTheLowByte := by
  unfold Obligations.CrcByteAbsorbsTheLowByte
  obtain ⟨-, hword, -⟩ := encode_words
  refine ⟨hword, fun _ _ => rfl, fun w hop hset => ?_, fun cp cp' s hlow => ?_, absorb_zero,
    by decide, fun cp s t hpoly ht => ?_, by decide, by decide⟩
  · exact decode_illegal_of_zeroBits_set (.crcByte 0) w hop (beq_eq_false_iff_ne.mpr hset)
  · have hbyte : charByte cp = charByte cp' := hlow
    simp only [exec, execCrcByte, hbyte]
  · obtain rfl := Host.Outcome.next.inj ht
    show absorb s.crc s.poly (charByte cp) = s.crc.extractLsb' 0 8 ++ 0x00#8
    rw [hpoly, absorb_zero_poly]

/-- A CRC_BYTE for each character. -/
def byteWords (cps : List Cp) : List CmdWord := cps.map fun c => encode (.crcByte c)

/-- CRC_BYTEs fold `absorb` over the low bytes of their characters, and leave the configuration. -/
theorem performWords_byteWords (cps : List Cp) : ∀ s t : State,
    performWords (byteWords cps) s = .next t →
      t.regs = ⟨absorbAll s.crc s.poly (cps.map (·.extractLsb' 0 8)), s.poly, s.init⟩ := by
  induction cps with
  | nil =>
    intro s t h
    obtain rfl := Host.Outcome.next.inj h
    rfl
  | cons c cps ih =>
    intro s t h
    simp only [byteWords, List.map_cons, performWords, performWord_encode] at h
    exact ih _ t h

/-- A CRC_READ behind other words answers the CRC they leave, as the last response. -/
theorem performWords_then_crcRead (ws : List CmdWord) (s t : State)
    (h : performWords ws s = .next t) :
    performWords (ws ++ [encode .crcRead]) s = .next (t.respond t.crc false) := by
  rw [performWords_append ws _ s t h]
  simp only [performWords, performWord_encode]
  rfl

/-- Characters absorbed and then read: the last response is the CRC so far (R86). -/
theorem performWords_byteWords_crcRead (cps : List Cp) (s : State) : ∃ t,
    performWords (byteWords cps ++ [encode .crcRead]) s = .next t ∧
      t.pending.getLast? = some ⟨absorbAll s.crc s.poly (cps.map (·.extractLsb' 0 8)), false⟩ := by
  obtain ⟨t, ht⟩ := performWords_total (byteWords cps) s
  have hcrc := congrArg Regs.crc (performWords_byteWords cps s t ht)
  refine ⟨_, performWords_then_crcRead _ s t ht, ?_⟩
  rw [State.respond_pending, List.getLast?_concat, ← State.regs_crc, hcrc]

/-- Settles O10. -/
theorem crcReadReturnsCrc : Obligations.CrcReadReturnsCrc := by
  unfold Obligations.CrcReadReturnsCrc
  obtain ⟨-, -, hword, -⟩ := encode_words
  refine ⟨hword, fun _ => rfl, fun w hop hset => ?_, fun s t u ht hu => ?_,
    performWords_byteWords_crcRead⟩
  · exact decode_illegal_of_zeroBits_set .crcRead w hop (beq_eq_false_iff_ne.mpr hset)
  · obtain rfl := Host.Outcome.next.inj ht
    obtain rfl := Host.Outcome.next.inj hu
    exact List.append_assoc s.pending _ _

/-- The low byte of a character is that of its code point. -/
theorem ofNat_8_toNat (cp : Cp) : BitVec.ofNat 8 cp.toNat = cp.extractLsb' 0 8 := by
  simp [BitVec.extractLsb']

/-- `CRC_REF` of characters of the CP field's width, on the datapath. -/
theorem crcRef_map_toNat (cps : List Cp) (poly init : Word) :
    crcRef (cps.map BitVec.toNat) poly init = absorbAll init poly (cps.map (·.extractLsb' 0 8)) := by
  have hbytes : BitVec.ofNat 8 ∘ BitVec.toNat = fun cp : Cp => cp.extractLsb' 0 8 :=
    funext ofNat_8_toNat
  rw [crcRef_eq_absorbAll, List.map_map, hbytes]

/-- Settles O31: sequences of CRC_BYTEs compose, and CRC_INIT puts INIT where the first one starts. -/
theorem prefixProperty : Obligations.PrefixProperty := by
  unfold Obligations.PrefixProperty
  constructor
  · intro a b s
    obtain ⟨t, ht⟩ := performWords_total (byteWords a) s
    obtain ⟨u, hu⟩ := performWords_total (byteWords b) t
    have hpoly : t.poly = s.poly := congrArg Regs.poly (performWords_byteWords a s t ht)
    have hcrc := congrArg Regs.crc (performWords_byteWords b t u hu)
    refine ⟨t, u, ht, hu, ?_, by rw [← hpoly]; exact hcrc⟩
    rw [List.map_append]
    exact (performWords_append (byteWords a) (byteWords b) s t ht).trans hu
  · intro a s
    have hinit := performWord_encode .crcInit s
    simp only [performWords, hinit, crcRef_map_toNat]
    exact performWords_byteWords_crcRead a _

/-- Settles O57: with no CRC_BYTE between them, CRC_READ answers what CRC_INIT loaded. -/
theorem emptyPayloadGivesTheInitialValue : Obligations.EmptyPayloadGivesTheInitialValue := by
  unfold Obligations.EmptyPayloadGivesTheInitialValue
  constructor
  · intro s
    have hinit : performWords [encode .crcInit] s =
        .next ((s.writeReg .CRC s.init).respond noData errLegal) := by
      simp only [performWords, performWord_encode]
      rfl
    exact ⟨_, performWords_then_crcRead [encode .crcInit] s _ hinit, List.append_assoc s.pending _ _⟩
  · intro seg poly init r
    simp [calculateCRC, calculateWords, calculateCommands, chars, abstractRun, abstractExec, resultText]

end Sys2Proof.Machine
end

section
/-! The configuration commands (41_config.md R110 to R113): a written value reaches CRC through the next
CRC_BYTE (POLY) or the next CRC_INIT (INIT), and not before. -/

namespace Sys2Proof.Machine

/-- The character after a POLY_WRITE is absorbed with the new polynomial into the CRC as it stood
(R110). -/
theorem crc_of_polyWrite_crcByte (val : Word) (cp : Cp) (s t u : State)
    (ht : exec (.polyWrite val) s = .next t) (hu : exec (.crcByte cp) t = .next u) :
    u.crc = absorb s.crc val (cp.extractLsb' 0 8) := by
  obtain rfl := Host.Outcome.next.inj ht
  obtain rfl := Host.Outcome.next.inj hu
  rfl

/-- Settles O11: with the zero polynomial the character that follows is shifted in without feedback. -/
theorem polyWriteSetsPoly : Obligations.PolyWriteSetsPoly := by
  unfold Obligations.PolyWriteSetsPoly
  obtain ⟨-, -, -, hword, -⟩ := encode_words
  refine ⟨hword, fun _ _ => rfl, fun w hop hset => ?_, crc_of_polyWrite_crcByte,
    fun cp s t u ht hu => ?_⟩
  · exact decode_illegal_of_zeroBits_set (.polyWrite 0) w hop (beq_eq_false_iff_ne.mpr hset)
  · rw [crc_of_polyWrite_crcByte _ cp s t u ht hu, absorb_zero_poly]

/-- The CRC_INIT after an INIT_WRITE loads the value written (R111). -/
theorem crc_of_initWrite_crcInit (val : Word) (s t u : State)
    (ht : exec (.initWrite val) s = .next t) (hu : exec .crcInit t = .next u) : u.crc = val := by
  obtain rfl := Host.Outcome.next.inj ht
  obtain rfl := Host.Outcome.next.inj hu
  rfl

/-- Characters after an INIT_WRITE are absorbed into the CRC as it stood (R111). -/
theorem performWords_initWrite_byteWords (val : Word) (cps : List Cp) (s : State) : ∃ t,
    performWords (encode (.initWrite val) :: byteWords cps) s = .next t ∧
      t.crc = absorbAll s.crc s.poly (cps.map (·.extractLsb' 0 8)) := by
  simp only [performWords, performWord_encode]
  obtain ⟨t, ht⟩ := performWords_total (byteWords cps)
    ((s.withRegs (regsAfter (.initWrite val) s)).respond noData errLegal)
  exact ⟨t, ht, congrArg Regs.crc (performWords_byteWords cps _ t ht)⟩

/-- Settles O12: INIT_WRITE leaves CRC and POLY, which are all that CRC_BYTE reads. -/
theorem initWriteSetsInit : Obligations.InitWriteSetsInit := by
  unfold Obligations.InitWriteSetsInit
  obtain ⟨-, -, -, -, hword, -⟩ := encode_words
  refine ⟨hword, fun _ _ => rfl, fun w hop hset => ?_, crc_of_initWrite_crcInit,
    performWords_initWrite_byteWords⟩
  exact decode_illegal_of_zeroBits_set (.initWrite 0) w hop (beq_eq_false_iff_ne.mpr hset)

/-- Settles O13: after reset the answer is `POLY_RESET`. -/
theorem polyReadReturnsPoly : Obligations.PolyReadReturnsPoly := by
  unfold Obligations.PolyReadReturnsPoly
  obtain ⟨-, -, -, -, -, hword, -⟩ := encode_words
  refine ⟨hword, fun _ => rfl, fun w hop hset => ?_, fun t ht => ?_⟩
  · exact decode_illegal_of_zeroBits_set .polyRead w hop (beq_eq_false_iff_ne.mpr hset)
  · obtain rfl := Host.Outcome.next.inj ht
    rfl

/-- Settles O14: after reset the answer is `INIT_RESET`. -/
theorem initReadReturnsInit : Obligations.InitReadReturnsInit := by
  unfold Obligations.InitReadReturnsInit
  obtain ⟨-, -, -, -, -, -, hword⟩ := encode_words
  refine ⟨hword, fun _ => rfl, fun w hop hset => ?_, fun t ht => ?_⟩
  · exact decode_illegal_of_zeroBits_set .initRead w hop (beq_eq_false_iff_ne.mpr hset)
  · obtain rfl := Host.Outcome.next.inj ht
    rfl

end Sys2Proof.Machine
end

section
/-! FORMAT, the hexadecimal text of a result (42_host_sequence.md R131, R132): its characters, and that
it keeps the whole value. -/

namespace Sys2Proof.Machine

/-- A digit is the entry of `0123456789ABCDEF` at its value (R131). -/
theorem some_hexDigit : ∀ d : BitVec 4, some (hexDigit d) =
    ['0', '1', '2', '3', '4', '5', '6', '7', '8', '9', 'A', 'B', 'C', 'D', 'E', 'F'][d.toNat]? := by
  decide

/-- A digit lies between `0` and `9` or between `A` and `F` (R132). -/
theorem hexDigit_range : ∀ d : BitVec 4,
    ('0' ≤ hexDigit d ∧ hexDigit d ≤ '9') ∨ ('A' ≤ hexDigit d ∧ hexDigit d ≤ 'F') := by
  decide

theorem hexDigit_injective : Function.Injective hexDigit := by
  have h : ∀ d d' : BitVec 4, hexDigit d = hexDigit d' → d = d' := by decide
  exact fun d d' => h d d'

theorem formatText_length (v : Word) : (formatText v).length = 4 := rfl

/-- Every character of a text is the digit of some four bits. -/
theorem exists_hexDigit_of_mem_formatText (v : Word) (c : Char) (hc : c ∈ formatText v) :
    ∃ d, c = hexDigit d := by
  simp only [formatText, List.mem_cons, List.not_mem_nil, or_false] at hc
  rcases hc with rfl | rfl | rfl | rfl <;> exact ⟨_, rfl⟩

/-- The four fields FORMAT writes make up the value (R131). -/
theorem eq_of_nibbles_eq (v v' : Word) (h3 : v.extractLsb' 12 4 = v'.extractLsb' 12 4)
    (h2 : v.extractLsb' 8 4 = v'.extractLsb' 8 4) (h1 : v.extractLsb' 4 4 = v'.extractLsb' 4 4)
    (h0 : v.extractLsb' 0 4 = v'.extractLsb' 0 4) : v = v' := by
  refine BitVec.eq_of_toNat_eq ?_
  simp only [← BitVec.toNat_inj, BitVec.extractLsb'_toNat, Nat.shiftRight_eq_div_pow] at h3 h2 h1 h0
  have hv := v.isLt
  have hv' := v'.isLt
  omega

/-- Different results have different texts. -/
theorem formatText_injective : Function.Injective formatText := fun v v' h => by
  simp only [formatText, List.cons.injEq, hexDigit_injective.eq_iff, and_true] at h
  obtain ⟨h3, h2, h1, h0⟩ := h
  exact eq_of_nibbles_eq v v' h3 h2 h1 h0

end Sys2Proof.Machine
end

section
/-! The command sequence of `calculateCRC` (42_host_sequence.md R130): its words, and the registers and
responses it gives in the abstract semantics of 20_memory.md R45. -/

namespace Sys2Proof.Machine

/-- The three commands that configure the block and start a computation (R130). -/
def startWords (poly init : Word) : List CmdWord :=
  [encode (.polyWrite poly), encode (.initWrite init), encode .crcInit]

/-- The sequence in its three parts (R130). -/
theorem calculateWords_eq (seg : Segmentation) (payload : Text) (poly init : Word) :
    calculateWords seg payload poly init =
      startWords poly init ++ (byteWords (chars seg payload) ++ [encode .crcRead]) := by
  simp [calculateWords, calculateCommands, startWords, byteWords]

/-- The start overwrites all three registers, whatever they held (R133). -/
theorem abstractRun_startWords (r : Regs) (poly init : Word) :
    abstractRun r (startWords poly init) =
      (⟨init, poly, init⟩, List.replicate 3 ⟨0x0000#16, false⟩) := by
  simp only [startWords, abstractRun, abstractExec, decode_encode]
  rfl

/-- CRC_BYTEs in the abstract semantics: the fold of `absorb`, and one plain response each. -/
theorem abstractRun_byteWords (cps : List Cp) : ∀ r : Regs, abstractRun r (byteWords cps) =
    (⟨absorbAll r.crc r.poly (cps.map (·.extractLsb' 0 8)), r.poly, r.init⟩,
      List.replicate cps.length ⟨0x0000#16, false⟩) := by
  induction cps with
  | nil => exact fun _ => rfl
  | cons c cps ih =>
    intro r
    have hfirst : abstractExec r (encode (.crcByte c)) =
        (⟨absorb r.crc r.poly (c.extractLsb' 0 8), r.poly, r.init⟩, ⟨0x0000#16, false⟩) := by
      simp only [abstractExec, decode_encode]
    simp only [byteWords, List.map_cons, abstractRun, hfirst]
    rw [← byteWords, ih]
    rfl

/-- A CRC_READ answers CRC. -/
theorem abstractRun_crcRead (r : Regs) : abstractRun r [encode .crcRead] = (r, [⟨r.crc, false⟩]) := by
  simp only [abstractRun, abstractExec, decode_encode]

/-- The source's checksum of a payload, as the host cuts it into characters (R80, R130). -/
def checksum (seg : Segmentation) (payload : Text) (poly init : Word) : Word :=
  crcRef ((chars seg payload).map BitVec.toNat) poly init

/-- The responses to the sequence: `n + 3` plain ones, then the checksum. -/
def calculateResponses (seg : Segmentation) (payload : Text) (poly init : Word) : List Response :=
  List.replicate ((chars seg payload).length + 3) ⟨0x0000#16, false⟩ ++
    [⟨checksum seg payload poly init, false⟩]

/-- The sequence from any registers: the responses are those of R130, and the registers it leaves do not
depend on those before it. -/
theorem abstractRun_calculateWords (seg : Segmentation) (payload : Text) (poly init : Word)
    (r : Regs) : abstractRun r (calculateWords seg payload poly init) =
      (⟨checksum seg payload poly init, poly, init⟩, calculateResponses seg payload poly init) := by
  have hsum : checksum seg payload poly init =
      absorbAll init poly ((chars seg payload).map (·.extractLsb' 0 8)) := crcRef_map_toNat _ poly init
  rw [calculateWords_eq, abstractRun_append, abstractRun_startWords, abstractRun_append,
    abstractRun_byteWords, abstractRun_crcRead, calculateResponses, hsum, Nat.add_comm,
    List.replicate_add, List.append_assoc]

theorem err_of_mem_calculateResponses (seg : Segmentation) (payload : Text) (poly init : Word)
    (resp : Response) (h : resp ∈ calculateResponses seg payload poly init) : resp.err = false := by
  rcases List.mem_append.mp h with hplain | hlast
  · rw [List.eq_of_mem_replicate hplain]
  · rw [List.mem_singleton.mp hlast]

/-- The host's reading of responses without an error: the text of the last one. -/
theorem resultText_append_singleton (resps : List Response) (resp : Response)
    (h : ∀ x ∈ resps ++ [resp], x.err = false) :
    resultText (resps ++ [resp]) = some (formatText resp.data) := by
  have hany : (resps ++ [resp]).any (·.err) = false := by
    simpa only [List.any_eq_false, Bool.not_eq_true] using h
  simp only [resultText, hany, List.getLast?_concat]
  rfl

theorem resultText_calculateResponses (seg : Segmentation) (payload : Text) (poly init : Word) :
    resultText (calculateResponses seg payload poly init) =
      some (formatText (checksum seg payload poly init)) :=
  resultText_append_singleton _ _ (err_of_mem_calculateResponses seg payload poly init)

/-- `calculateCRC` gives the text of the source's checksum from any registers (R130, R133). -/
theorem calculateCRC_eq (seg : Segmentation) (payload : Text) (poly init : Word) (r : Regs) :
    calculateCRC seg payload poly init r = some (formatText (checksum seg payload poly init)) := by
  rw [calculateCRC, abstractRun_calculateWords, resultText_calculateResponses]

/-- No response to the sequence is an error (R134). -/
theorem err_of_mem_abstractRun_calculateWords (seg : Segmentation) (payload : Text)
    (poly init : Word) (r : Regs) (resp : Response)
    (h : resp ∈ (abstractRun r (calculateWords seg payload poly init)).2) : resp.err = false := by
  rw [abstractRun_calculateWords] at h
  exact err_of_mem_calculateResponses seg payload poly init resp h

/-- A command's word is never among those R67 calls illegal. -/
theorem illegalWord_encode (i : Instr) : illegalWord (encode i) = false :=
  illegalWord_eq_false_of_decode_command (encode i) i (decode_encode i)

/-- Settles O49: the handshake refines the abstract semantics, in which the sequence gives these
responses. -/
theorem calculateCrcGivesTheSourceChecksum : Obligations.CalculateCrcGivesTheSourceChecksum := by
  unfold Obligations.CalculateCrcGivesTheSourceChecksum
  intro seg payload poly init ins rest s t hedges hdone hins hwords hrun
  obtain ⟨⟨-, hresps⟩, -⟩ := run_followsBy ins rest s t hedges hdone hins hrun
  rw [hwords, abstractRun_calculateWords] at hresps
  exact ⟨_, hresps, rfl, resultText_calculateResponses seg payload poly init⟩

/-- Settles O50. -/
theorem calculateCrcSequenceAndDefaults : Obligations.CalculateCrcSequenceAndDefaults := by
  unfold Obligations.CalculateCrcSequenceAndDefaults
  obtain ⟨hinit, hbyte, hread, hpolyWrite, hinitWrite, -⟩ := encode_words
  refine ⟨fun seg payload poly init => ?_, fun seg payload poly init r => ?_,
    fun _ _ _ => ⟨rfl, rfl⟩⟩
  · rw [calculateWords_eq, startWords, byteWords, hpolyWrite, hinitWrite, hinit, hread,
      List.append_assoc]
    simp only [hbyte]
  · exact ⟨err_of_mem_abstractRun_calculateWords seg payload poly init r,
      calculateCRC_eq seg payload poly init r⟩

/-- Settles O52, digit by digit. -/
theorem formatIsFourUppercaseHexDigits : Obligations.FormatIsFourUppercaseHexDigits := by
  unfold Obligations.FormatIsFourUppercaseHexDigits
  refine ⟨fun v => ?_, by decide, fun seg payload poly init r => ?_⟩
  · simp only [← some_hexDigit]
    rfl
  · refine ⟨_, calculateCRC_eq seg payload poly init r, formatText_length _, fun c hc => ?_⟩
    obtain ⟨d, rfl⟩ := exists_hexDigit_of_mem_formatText _ c hc
    exact hexDigit_range d

/-- Settles O53: neither the text nor the responses mention the registers before the sequence. -/
theorem resultDoesNotDependOnThePriorState : Obligations.ResultDoesNotDependOnThePriorState := by
  unfold Obligations.ResultDoesNotDependOnThePriorState
  constructor
  · intro seg payload poly init r r'
    rw [calculateCRC_eq, calculateCRC_eq]
  · intro seg payload poly init r
    simp only [abstractRun_append, abstractRun_calculateWords]

/-- Settles O54: every word of the sequence encodes a command, and 21 bits hold every code point. -/
theorem sequenceOfCalculateCrcIsLegal : Obligations.SequenceOfCalculateCrcIsLegal := by
  unfold Obligations.SequenceOfCalculateCrcIsLegal
  refine ⟨fun seg payload poly init w hw => ?_, err_of_mem_abstractRun_calculateWords, fun c => ?_⟩
  · obtain ⟨i, -, rfl⟩ := List.mem_map.mp hw
    exact illegalWord_encode i
  · have hc : c.val < 0x110000 := c.isLt
    rw [BitVec.toNat_ofNat, Nat.mod_eq_of_lt (by omega)]

end Sys2Proof.Machine
end

section
/-! The result as a function of the initial value (42_host_sequence.md R137). -/

namespace Sys2Proof.Machine

/-- For an odd polynomial absorbing bytes can be undone, byte by byte. -/
theorem absorbAll_bijective (p : Word) (hp : p.getLsbD 0 = true) (bs : List Byte) :
    Function.Bijective (fun r => absorbAll r p bs) := by
  induction bs with
  | nil => exact Function.bijective_id
  | cons b bs ih => exact ih.comp (absorb_bijective p hp b)

theorem checksum_bijective (seg : Segmentation) (payload : Text) (poly : Word)
    (hpoly : poly.getLsbD 0 = true) : Function.Bijective (checksum seg payload poly) := by
  have hsum : checksum seg payload poly = fun init =>
      absorbAll init poly ((chars seg payload).map (·.extractLsb' 0 8)) :=
    funext fun init => crcRef_map_toNat _ poly init
  rw [hsum]
  exact absorbAll_bijective poly hpoly _

/-- Settles O56: FORMAT is injective too; with the zero polynomial one character shifts out the
high byte, in which the two initial values differ. -/
theorem initialValueToResultIsABijection : Obligations.InitialValueToResultIsABijection := by
  unfold Obligations.InitialValueToResultIsABijection
  constructor
  · intro seg payload poly hpoly
    have hbij := checksum_bijective seg payload poly hpoly
    refine ⟨hbij, fun init init' r htext => ?_⟩
    rw [calculateCRC_eq, calculateCRC_eq] at htext
    exact hbij.injective (formatText_injective (Option.some.inj htext))
  · refine ⟨.codePoint, [0], 0x0000#16, 0x0000#16, 0x0100#16, resetRegs, by decide, by decide, ?_⟩
    have hsame : checksum .codePoint [0] 0x0000#16 0x0000#16 =
        checksum .codePoint [0] 0x0000#16 0x0100#16 := by decide
    rw [calculateCRC_eq, calculateCRC_eq, hsame]

end Sys2Proof.Machine
end

section
/-! IllegalCommand (60_exceptions.md R151, R152): it is the only error, and it leaves nothing behind for
the word after it. A word reads the registers alone, so an earlier response cannot change what it does. -/

namespace Sys2Proof.Machine

/-- The whole next state of a word, in terms of `exec` of R45 on the registers. -/
theorem performWord_eq_abstractExec (w : CmdWord) (s : State) :
    performWord w s = .next ((s.withRegs (abstractExec s.regs w).1).respond
      (abstractExec s.regs w).2.data (abstractExec s.regs w).2.err) := by
  rcases performWord_cases w s with ⟨i, hd, hw⟩ | ⟨hd, hw⟩
  · rw [hw]
    simp only [abstractExec, hd]
    cases i <;> rfl
  · rw [hw]
    simp only [abstractExec, hd]
    rfl

/-- Of all words the illegal ones alone are answered with an error (R150, R151). -/
theorem abstractExec_err_iff (r : Regs) (w : CmdWord) :
    (abstractExec r w).2.err = true ↔ decode w = .illegal := by
  cases hd : decode w with
  | illegal => simp only [abstractExec, hd]
  | command i => cases i <;> simp [abstractExec, hd]

/-- A response before a change of registers and a second response shows in the queue only. -/
theorem State.respond_withRegs_respond (s : State) (first second : Response) (r : Regs) :
    ((s.respond first.data first.err).withRegs r).respond second.data second.err =
      { (s.withRegs r).respond second.data second.err with
        pending := s.pending ++ [first, second] } :=
  congrArg (fun queue => { s.withRegs r with pending := queue })
    (List.append_assoc s.pending [first] [second])

/-- Settles O17: the one response a word adds is that of the abstract semantics. -/
theorem illegalCommandAnswersErrAndWritesNothing :
    Obligations.IllegalCommandAnswersErrAndWritesNothing := by
  unfold Obligations.IllegalCommandAnswersErrAndWritesNothing
  constructor
  · intro w s hw
    exact performWord_of_illegalWord w s (illegalWord_of_decode_illegal w hw)
  · intro w s t r ht hr
    obtain ⟨-, hanswer⟩ := performWord_regs w s t ht
    obtain rfl : r = (abstractExec s.regs w).2 :=
      List.singleton_injective (List.append_cancel_left (hr.symm.trans hanswer))
    exact abstractExec_err_iff s.regs w

/-- Settles O18: the illegal word keeps the registers, which are all that the next word reads. -/
theorem illegalCommandIsNotSticky : Obligations.IllegalCommandIsNotSticky := by
  unfold Obligations.IllegalCommandIsNotSticky
  intro w w' s hw
  have hkept : (s.illegalCommand w).regs = s.regs := rfl
  refine ⟨_, _, (abstractExec s.regs w').2, performWord_eq_abstractExec w' s, ?_, rfl,
    s.respond_withRegs_respond ⟨noData, errIllegal⟩ _ (abstractExec s.regs w').1⟩
  simp only [performWords, performWord_of_illegalWord w s hw, performWord_eq_abstractExec, hkept]
  rfl

end Sys2Proof.Machine
end

section
/-! Reset edges (70_reset_and_hazards.md R171, R172): the pins at one, the whole state after one, and the
first command behind one; and what the reset state answers (R175). -/

namespace Sys2Proof.Machine

theorem Edge.cmdReady_of_rst (e : Edge) (hrst : e.rst = true) : e.cmdReady = false := by
  simp [Edge.cmdReady, hrst]

theorem Edge.accepts_of_rst (e : Edge) (hrst : e.rst = true) : e.accepts = false := by
  simp [Edge.accepts, hrst]

theorem State.respValid_of_rst (s : State) (e : Edge) (hrst : e.rst = true) :
    s.respValid e = false := by
  simp [State.respValid, hrst]

/-- Behind a reset edge stands the reset state, apart from the word the host now offers and from what is
not the block's (R171, R172): its registers and its port do not come from the state before. -/
theorem State.applyReset_eq (s : State) (presented : Option CmdWord) :
    s.applyReset presented = { State.reset with
      offered := presented, inputs := s.inputs, delivered := s.delivered, draws := s.draws } := rfl

/-- A host that presents nothing, or `w`, keeps its duty by presenting `w` next (R42). -/
theorem offerHeld_sendEdge_of_presented (s : State) (e : Edge) (w : CmdWord)
    (hoffered : s.offered = e.presented) (hsame : e.cmdValid = true → e.cmdWord = w) :
    s.offerHeld (sendEdge w) = true := by
  unfold State.offerHeld
  rw [hoffered, Edge.presented]
  cases hvalid : e.cmdValid with
  | false => rfl
  | true => exact beq_iff_eq.mpr (congrArg some (hsame hvalid).symm)

/-- A block that was reset performs the word sent to it, and its response waits behind the older ones:
`sendEdge` takes none of them. -/
theorem step_sendEdge (s : State) (w : CmdWord) (rest : List HostInput)
    (hins : s.inputs = .edge (sendEdge w) :: rest) (hdone : s.resetDone = true)
    (hheld : s.offerHeld (sendEdge w) = true) :
    ∃ t, step s = .next t ∧ t.regs = (abstractExec s.regs w).1 ∧
      t.pending = s.pending ++ [(abstractExec s.regs w).2] := by
  obtain ⟨t, ht⟩ := runningEdge_total (sendEdge w) { s with inputs := rest } hheld
  obtain ⟨-, hregs, -, hpending, -⟩ := runningEdge_next _ _ t ht
  have hkept : (State.responseSide { s with inputs := rest } (sendEdge w)).pending = s.pending := by
    rcases State.responseSide_cases { s with inputs := rest } (sendEdge w) with
      ⟨-, htaken, -⟩ | ⟨-, hside⟩
    · cases htaken
    · rw [hside]
  rw [hkept] at hpending
  exact ⟨t, (step_running s _ rest hins rfl hdone).trans ht, hregs, hpending⟩

/-- Settles O43: the word offered under reset is the one the host must hold, so the next edge takes it. -/
theorem resetEdgeSetsTheRegisters : Obligations.ResetEdgeSetsTheRegisters := by
  unfold Obligations.ResetEdgeSetsTheRegisters
  refine ⟨fun s e rest hins hrst => ?_, fun s e w rest hins hrst hsame => ?_, rfl⟩
  · exact ⟨e.cmdReady_of_rst hrst, s.respValid_of_rst e hrst, e.accepts_of_rst hrst,
      _, step_reset s e rest hins hrst, rfl, rfl, rfl, rfl, rfl⟩
  · obtain ⟨u, hstep, hregs, hpending⟩ := step_sendEdge
      (State.applyReset { s with inputs := .edge (sendEdge w) :: rest } e.presented) w rest rfl rfl
      (offerHeld_sendEdge_of_presented _ e w rfl hsame)
    exact ⟨_, u, step_reset s e _ hins hrst, hstep, hregs, hpending⟩

/-- Settles O44: of the state before a reset edge only `delivered`, `draws` and the coming inputs are
left behind it. -/
theorem resetDiscardsWorkInProgress : Obligations.ResetDiscardsWorkInProgress := by
  unfold Obligations.ResetDiscardsWorkInProgress
  intro s s' e rest hins hins' hrst hdelivered hdraws
  have hsame : State.applyReset { s' with inputs := rest } e.presented =
      State.applyReset { s with inputs := rest } e.presented := by
    simp only [State.applyReset_eq, hdelivered, hdraws]
  refine ⟨_, step_reset s e rest hins hrst, ?_, rfl, rfl, rfl⟩
  rw [step_reset s' e rest hins' hrst, hsame]

/-- Settles O47: the reset state holds the default INIT in CRC and in INIT alike, and the empty payload
gives back the initial value. -/
theorem readAfterResetGivesTheEmptyChecksum : Obligations.ReadAfterResetGivesTheEmptyChecksum := by
  unfold Obligations.ReadAfterResetGivesTheEmptyChecksum
  obtain ⟨hinit, -, hread, -⟩ := encode_words
  obtain ⟨hempty, hresult⟩ := emptyPayloadGivesTheInitialValue
  rw [← hinit, ← hread]
  refine ⟨⟨_, performWords_then_crcRead [] State.reset State.reset rfl, rfl⟩, hempty State.reset, ?_⟩
  rw [hresult]
  decide

end Sys2Proof.Machine
end

section
/-! The encoding and its inverse (30_encoding.md R66, R69, R72): a command's words are exactly its
encodings, the opcode map has a row for each opcode, and how many words each command has. -/

namespace Sys2Proof.Machine

/-- Settles O1: `decode` finds every field where the encoder put it. -/
theorem decodeOfEncodeGivesTheCommand : Obligations.DecodeOfEncodeGivesTheCommand := by
  unfold Obligations.DecodeOfEncodeGivesTheCommand
  exact fun i _ => decode_encode i

/-- How many of the low bits of a word are a command's operand (R62, R63, R64). -/
def operandWidth : Instr → Nat
  | .crcInit | .crcRead | .polyRead | .initRead => 0
  | .polyWrite _ | .initWrite _ => 16
  | .crcByte _ => 21

theorem operandWidth_le (i : Instr) : operandWidth i ≤ 28 := by
  cases i <;> simp [operandWidth]

/-- The must-be-zero bits stand between the operand and the opcode. -/
theorem formatZeroBits_iff (i : Instr) (w : CmdWord) : formatZeroBits i w = true ↔
    w.extractLsb' (operandWidth i) (28 - operandWidth i) = 0#(28 - operandWidth i) := by
  cases i <;> exact beq_iff_eq

/-- `decode` reads the operand from the low bits of the word (R69). -/
theorem operandBits_of_decode_command (w : CmdWord) (i : Instr) (h : decode w = .command i) :
    i.operandBits = (w.extractLsb' 0 (operandWidth i)).setWidth 32 := by
  have hempty : 0#32 = (w.extractLsb' 0 0).setWidth 32 := by
    rw [BitVec.eq_nil (w.extractLsb' 0 0)]
    rfl
  unfold decode at h
  split_ifs at h
  all_goals obtain rfl := Decoded.command.inj h
  exacts [hempty, rfl, hempty, rfl, rfl, hempty, hempty]

/-- A word is its opcode and its low `n` bits where it is zero between the two. -/
theorem eq_opField_or_low (w : CmdWord) (n : Nat)
    (hzero : w.extractLsb' n (28 - n) = 0#(28 - n)) :
    w = (opField w).setWidth 32 <<< 28 ||| (w.extractLsb' 0 n).setWidth 32 := by
  ext k hk
  by_cases hop : k < 28
  · by_cases hlow : k < n
    · simp [hlow, hk, hop]
    · have hin : k - n < 28 - n := by omega
      simpa [hk, hop, hlow, hin, Nat.add_sub_cancel' (Nat.le_of_not_lt hlow)] using
        congrArg (·.getLsbD (k - n)) hzero
  · have hfield : k - 28 < 4 := by omega
    simp [opField, hop, hfield, hk, Nat.add_sub_cancel' (Nat.le_of_not_lt hop),
      BitVec.getLsbD_eq_getElem]

/-- The only word of a command is its encoding. -/
theorem eq_encode_of_decode_command (w : CmdWord) (i : Instr) (h : decode w = .command i) :
    w = encode i := by
  obtain ⟨hop, hzero⟩ := fields_of_decode_command w i h
  rw [encode, ← hop, operandBits_of_decode_command w i h]
  exact eq_opField_or_low w (operandWidth i) ((formatZeroBits_iff i w).mp hzero)

theorem decode_eq_command_iff (w : CmdWord) (i : Instr) : decode w = .command i ↔ w = encode i :=
  ⟨eq_encode_of_decode_command w i, fun h => h ▸ decode_encode i⟩

/-- Settles O2. -/
theorem onlyItsEncodingDecodesToACommand : Obligations.OnlyItsEncodingDecodesToACommand := by
  unfold Obligations.OnlyItsEncodingDecodesToACommand
  exact eq_encode_of_decode_command

/-- A command's row of the opcode map, from its opcode and the width of its operand: the mask covers
all bits above the operand (R66). -/
def rowOf (i : Instr) : OpcodeRow where
  mnemonic := i.mnemonic
  pattern := i.opcode.setWidth 32 <<< 28
  mask := (BitVec.allOnes (32 - operandWidth i)).setWidth 32 <<< operandWidth i

/-- The rows of the opcode map stand in the order of the opcodes. -/
theorem opcodeTable_getElem_opcode (i : Instr) :
    opcodeTable[i.opcode.toNat - 1]? = some (rowOf i) := by
  cases i with
  | crcByte cp => exact (by decide : opcodeTable[1]? = some (rowOf (.crcByte 0)))
  | polyWrite val => exact (by decide : opcodeTable[3]? = some (rowOf (.polyWrite 0)))
  | initWrite val => exact (by decide : opcodeTable[4]? = some (rowOf (.initWrite 0)))
  | crcInit | crcRead | polyRead | initRead => decide

theorem rowOf_mem_opcodeTable (i : Instr) : rowOf i ∈ opcodeTable :=
  List.mem_of_getElem? (opcodeTable_getElem_opcode i)

/-- Every row of the opcode map is a command's. -/
theorem exists_rowOf_of_mem_opcodeTable (r : OpcodeRow) (hr : r ∈ opcodeTable) : ∃ i, r = rowOf i := by
  simp only [opcodeTable, List.mem_cons, List.not_mem_nil, or_false] at hr
  rcases hr with h | h | h | h | h | h | h
  exacts [⟨.crcInit, h⟩, ⟨.crcByte 0, h⟩, ⟨.crcRead, h⟩, ⟨.polyWrite 0, h⟩, ⟨.initWrite 0, h⟩,
    ⟨.polyRead, h⟩, ⟨.initRead, h⟩]

/-- Commands of one opcode share their row, whatever their operands. -/
theorem rowOf_eq_of_opcode_eq (i j : Instr) (h : i.opcode = j.opcode) : rowOf i = rowOf j :=
  Option.some.inj (by rw [← opcodeTable_getElem_opcode, ← opcodeTable_getElem_opcode, h])

/-- Under the mask of all bits from `n` up, a word equals an opcode in place exactly when it has this
opcode and zeros between. -/
theorem and_highMask_eq_opcode_iff (w : CmdWord) (op : BitVec 4) (n : Nat) (hn : n ≤ 28) :
    w &&& ((BitVec.allOnes (32 - n)).setWidth 32 <<< n) = op.setWidth 32 <<< 28 ↔
      opField w = op ∧ w.extractLsb' n (28 - n) = 0#(28 - n) := by
  constructor
  · intro hmasked
    have hbit (k : Nat) (hk : k < 32) (hlow : ¬ k < n) :
        w.getLsbD k = (!decide (k < 28) && op.getLsbD (k - 28)) := by
      have hin : k - n < 32 - n := by omega
      have hlt : k - n < 32 := by omega
      simpa [hk, hlow, hin, hlt] using congrArg (·.getLsbD k) hmasked
    constructor
    · ext j hj
      simpa [opField, hj] using hbit (28 + j) (by omega) (by omega)
    · ext j hj
      simpa [hj, show n + j < 28 by omega] using hbit (n + j) (by omega) (by omega)
  · rintro ⟨rfl, hzero⟩
    ext k hk
    by_cases hlow : k < n
    · simp [hlow, show k < 28 by omega]
    · have hin : k - n < 32 - n := by omega
      have hlt : k - n < 32 := by omega
      simpa [hk, hlow, hin, hlt] using congrArg (·.getLsbD k) (eq_opField_or_low w n hzero)

/-- A word fits a command's row exactly when it has the command's opcode and its format's zeros. -/
theorem rowOf_fits_iff (i : Instr) (w : CmdWord) : (rowOf i).fits w = true ↔
    opField w = i.opcode ∧ formatZeroBits i w = true := by
  rw [OpcodeRow.fits, beq_iff_eq, formatZeroBits_iff]
  exact and_highMask_eq_opcode_iff w i.opcode (operandWidth i) (operandWidth_le i)

/-- A word that decodes to a command fits the command's row. -/
theorem rowOf_fits_of_decode_command (w : CmdWord) (i : Instr) (h : decode w = .command i) :
    (rowOf i).fits w = true :=
  (rowOf_fits_iff i w).mpr (fields_of_decode_command w i h)

/-- A word that fits a command's row decodes to a command of that row, with the word's own operand. -/
theorem exists_decode_of_rowOf_fits (i : Instr) (w : CmdWord) (h : (rowOf i).fits w = true) :
    ∃ j, decode w = .command j ∧ rowOf j = rowOf i := by
  obtain ⟨hop, hzero⟩ := (rowOf_fits_iff i w).mp h
  cases hd : decode w with
  | illegal => exact absurd hd (decode_ne_illegal_of_fields w i hop hzero)
  | command j =>
    obtain ⟨hop', -⟩ := fields_of_decode_command w j hd
    exact ⟨j, rfl, rowOf_eq_of_opcode_eq j i (hop'.symm.trans hop)⟩

/-- Settles O3: the opcode alone decides the row. -/
theorem decodeAgreesWithTheOpcodeMap : Obligations.DecodeAgreesWithTheOpcodeMap := by
  unfold Obligations.DecodeAgreesWithTheOpcodeMap
  refine ⟨fun w m => ⟨?_, ?_⟩, fun w r hr r' hr' hfits hfits' => ?_⟩
  · rintro ⟨i, hd, hm⟩
    exact ⟨rowOf i, rowOf_mem_opcodeTable i, hm, rowOf_fits_of_decode_command w i hd⟩
  · rintro ⟨r, hr, hm, hfits⟩
    obtain ⟨i, rfl⟩ := exists_rowOf_of_mem_opcodeTable r hr
    obtain ⟨j, hd, hrow⟩ := exists_decode_of_rowOf_fits i w hfits
    exact ⟨j, hd, (congrArg OpcodeRow.mnemonic hrow).trans hm⟩
  · obtain ⟨i, rfl⟩ := exists_rowOf_of_mem_opcodeTable r hr
    obtain ⟨i', rfl⟩ := exists_rowOf_of_mem_opcodeTable r' hr'
    obtain ⟨hop, -⟩ := (rowOf_fits_iff i w).mp hfits
    obtain ⟨hop', -⟩ := (rowOf_fits_iff i' w).mp hfits'
    exact rowOf_eq_of_opcode_eq i i' (hop.symm.trans hop')

theorem encode_injective : Function.Injective encode := fun i j h =>
  Decoded.command.inj (by rw [← decode_encode i, ← decode_encode j, h])

/-- A family of commands has as many words as it has operands. -/
theorem card_words_of_family {n : Nat} (f : BitVec n → Instr) (hf : Function.Injective f) :
    Nat.card { w : CmdWord // ∃ x, decode w = .command (f x) } = 2 ^ n := by
  have hrange : { w : CmdWord | ∃ x, decode w = .command (f x) } = Set.range (encode ∘ f) := by
    ext w
    simp only [decode_eq_command_iff, Set.mem_ofPred_eq, Set.mem_range, Function.comp_apply, eq_comm]
  calc Nat.card { w : CmdWord | ∃ x, decode w = .command (f x) }
      = Nat.card (BitVec n) := by
        rw [hrange, Nat.card_congr (Equiv.ofInjective _ (encode_injective.comp hf))]
    _ = 2 ^ n := by rw [Nat.card_congr BitVec.equivFin.toEquiv, Nat.card_fin]

/-- A command without an operand has one word. -/
theorem card_words_of_command (i : Instr) :
    Nat.card { w : CmdWord // decode w = .command i } = 1 := by
  simp only [decode_eq_command_iff, Nat.card_unique]

/-- Settles O4: the words of a command are its encodings, and no two operands share one. -/
theorem decodeCountsOfWords : Obligations.DecodeCountsOfWords := by
  unfold Obligations.DecodeCountsOfWords
  exact ⟨card_words_of_family .crcByte fun _ _ => Instr.crcByte.inj,
    card_words_of_family .polyWrite fun _ _ => Instr.polyWrite.inj,
    card_words_of_family .initWrite fun _ _ => Instr.initWrite.inj,
    card_words_of_command .crcInit, card_words_of_command .crcRead,
    card_words_of_command .polyRead, card_words_of_command .initRead⟩

/-- Settles O7. -/
theorem sampleWordsDecode : Obligations.SampleWordsDecode := by
  unfold Obligations.SampleWordsDecode
  decide

end Sys2Proof.Machine
end

section
/-! The step at a running edge (20_memory.md R42 to R45): what it does with the command, with an offer
and with the responses, and the port's invariant. -/

namespace Sys2Proof.Machine

/-- Where `rst` is 0, a command is accepted where it is presented and the block is ready (R42). -/
theorem Edge.accepts_of_running (e : Edge) (hrst : e.rst = false) :
    e.accepts = (e.cmdValid && e.readyChoice) := by
  simp [Edge.accepts, Edge.cmdReady, hrst]

/-- The host's duty at one edge: nothing was on offer, or it is presented again (R42). -/
theorem State.offerHeld_eq (s : State) (e : Edge) :
    s.offerHeld e = (s.offered.isNone || e.presented == s.offered) := by
  unfold State.offerHeld
  cases s.offered <;> rfl

theorem State.offerHeld_of_offered_none (s : State) (e : Edge) (h : s.offered = none) :
    s.offerHeld e = true := by
  simp [State.offerHeld_eq, h]

/-- A response that is not taken, or not on the port, stays (R43). -/
theorem State.responseSide_of_not_delivers (s : State) (e : Edge) (h : s.delivers e = false) :
    s.responseSide e = { s with respRaised := s.respValid e } :=
  if_neg (Bool.eq_false_iff.mp h)

theorem State.responseSide_of_delivers (s : State) (e : Edge) (h : s.delivers e = true) :
    s.responseSide e = { s with
      pending := s.pending.tail
      delivered := s.delivered ++ s.pending.head?.toList
      respRaised := false } :=
  if_pos h

/-- The response side does not look at the coming inputs. -/
theorem State.responseSide_withInputs (s : State) (e : Edge) (rest : List HostInput) :
    State.responseSide { s with inputs := rest } e = { s.responseSide e with inputs := rest } := by
  cases h : s.delivers e with
  | true =>
    rw [s.responseSide_of_delivers e h]
    exact State.responseSide_of_delivers _ e h
  | false =>
    rw [s.responseSide_of_not_delivers e h]
    exact State.responseSide_of_not_delivers _ e h

theorem State.delivers_of_not_respReady (s : State) (e : Edge) (h : e.respReady = false) :
    s.delivers e = false := by
  simp [State.delivers, h]

theorem State.delivers_of_not_respValid (s : State) (e : Edge) (h : s.respValid e = false) :
    s.delivers e = false := by
  simp [State.delivers, h]

/-- What a next state of a running edge holds, in terms of the state before the step. -/
theorem step_running_next (s t : State) (e : Edge) (rest : List HostInput)
    (hins : s.inputs = .edge e :: rest) (hrst : e.rst = false) (hdone : s.resetDone = true)
    (h : step s = .next t) :
    t.regs = (if e.accepts then (abstractExec s.regs e.cmdWord).1 else s.regs) ∧
    t.delivered = (s.responseSide e).delivered ∧
    t.pending = (s.responseSide e).pending ++
      (if e.accepts then [(abstractExec s.regs e.cmdWord).2] else []) ∧
    t.respRaised = (s.responseSide e).respRaised ∧
    t.offered = (if e.accepts then none else e.presented) ∧
    t.inputs = rest ∧ t.resetDone = true := by
  rw [step_running s e rest hins hrst hdone] at h
  obtain ⟨-, hregs, hdelivered, hpending, hraised, hoffered, hinputs, hreset⟩ :=
    runningEdge_next e _ t h
  rw [State.responseSide_withInputs] at hdelivered hpending hraised
  exact ⟨hregs, hdelivered, hpending, hraised, hoffered, hinputs, hreset.trans hdone⟩

/-- A block that was reset takes every running edge of a host that keeps its duty. -/
theorem step_running_total (s : State) (e : Edge) (rest : List HostInput)
    (hins : s.inputs = .edge e :: rest) (hrst : e.rst = false) (hdone : s.resetDone = true)
    (hheld : s.offerHeld e = true) : ∃ t, step s = .next t := by
  rw [step_running s e rest hins hrst hdone]
  exact runningEdge_total e { s with inputs := rest } hheld

/-- The one answer at an edge is that to the accepted word, if there is one. -/
theorem abstractRun_acceptedWords_edge (r : Regs) (e : Edge) :
    (abstractRun r (acceptedWords [.edge e])).2 =
      if e.accepts then [(abstractExec r e.cmdWord).2] else [] := by
  cases he : e.accepts <;> simp [acceptedWords, he, abstractRun]

/-- The responses along a running edge, delivered or waiting, grow by the answer to the accepted word
(R43). -/
theorem step_running_responses (s t : State) (e : Edge) (rest : List HostInput)
    (hins : s.inputs = .edge e :: rest) (hrst : e.rst = false) (hdone : s.resetDone = true)
    (h : step s = .next t) : t.delivered ++ t.pending = s.delivered ++ s.pending ++
      (if e.accepts then [(abstractExec s.regs e.cmdWord).2] else []) := by
  obtain ⟨⟨-, hresps⟩, -⟩ := step_followsBy e rest s t hins hrst hdone h
  rw [hresps, abstractRun_acceptedWords_edge]

/-! ### The port's invariant -/

/-- An answer with an error carries no data (R44). -/
theorem abstractExec_data_of_err (r : Regs) (w : CmdWord) (h : (abstractExec r w).2.err = true) :
    (abstractExec r w).2.data = 0x0000#16 := by
  have hd := (abstractExec_err_iff r w).mp h
  simp only [abstractExec, hd]

/-- After the response side a raised response is still waiting: a delivered one is no longer raised. -/
theorem State.responseSide_raised_pending (s : State) (e : Edge)
    (h : (s.responseSide e).respRaised = true) : (s.responseSide e).pending ≠ [] := by
  rcases s.responseSide_cases e with ⟨-, -, hside⟩ | ⟨-, hside⟩
  · rw [hside] at h
    cases h
  · rw [hside] at h ⊢
    intro hempty
    have hpending : s.pending = [] := hempty
    simp [State.respValid, hpending] at h

/-- A running edge keeps the invariant: the response it may add is a command's answer. -/
theorem step_running_portInv (s t : State) (e : Edge) (rest : List HostInput) (hinv : PortInv s)
    (hins : s.inputs = .edge e :: rest) (hrst : e.rst = false) (hdone : s.resetDone = true)
    (h : step s = .next t) : PortInv t := by
  obtain ⟨-, -, herr⟩ := hinv
  obtain ⟨-, -, hpending, hraised, -, -, hreset⟩ := step_running_next s t e rest hins hrst hdone h
  refine ⟨fun hr => ?_, fun hnot => ?_, fun r hr hre => ?_⟩
  · rw [hpending]
    exact List.append_ne_nil_of_left_ne_nil
      (s.responseSide_raised_pending e (hraised.symm.trans hr)) _
  · rw [hreset] at hnot
    cases hnot
  · rw [step_running_responses s t e rest hins hrst hdone h] at hr
    rcases List.mem_append.mp hr with hold | hnew
    · exact herr r hold hre
    · split at hnew
      · obtain rfl := List.mem_singleton.mp hnew
        exact abstractExec_data_of_err s.regs e.cmdWord hre
      · cases hnew

/-- An empty port meets the invariant where what was delivered does. -/
theorem portInv_of_empty (s : State) (hpending : s.pending = []) (hraised : s.respRaised = false)
    (hoffered : s.resetDone = false → s.offered = none)
    (herr : ∀ r ∈ s.delivered, r.err = true → r.data = 0x0000#16) : PortInv s := by
  refine ⟨fun h => ?_, fun h => ⟨hpending, hoffered h⟩, ?_⟩
  · rw [hraised] at h
    cases h
  · rwa [hpending, List.append_nil]

/-- Settles O41, along the cases of a step: reset and power-on empty the port, a stopped clock keeps
it. -/
theorem everyStepKeepsThePortInvariant : Obligations.EveryStepKeepsThePortInvariant := by
  unfold Obligations.EveryStepKeepsThePortInvariant
  intro s t hinv h
  have hdelivered : ∀ r ∈ s.delivered, r.err = true → r.data = 0x0000#16 := by
    obtain ⟨-, -, herr⟩ := hinv
    exact fun r hr => herr r (List.mem_append_left _ hr)
  rcases step_cases s with ⟨-, hs⟩ | ⟨e, rest, hins, hs⟩ | ⟨rest, -, hs⟩ | ⟨rest, -, hs⟩
  · obtain rfl := Host.Outcome.next.inj (hs.symm.trans h)
    exact hinv
  · rcases clockEdge_cases e { s with inputs := rest } with
      ⟨-, he⟩ | ⟨hrst, hdone, -⟩ | ⟨-, -, he⟩
    · obtain rfl := Host.Outcome.next.inj ((hs.trans he).symm.trans h)
      exact portInv_of_empty _ rfl rfl (fun hnot => nomatch hnot) hdelivered
    · exact step_running_portInv s t e rest hinv hins hrst hdone h
    · obtain ⟨-, -, rfl⟩ := edgeBeforeReset_next e _ t ((hs.trans he).symm.trans h)
      exact hinv
  · obtain rfl := Host.Outcome.next.inj (hs.symm.trans h)
    exact hinv
  · obtain rfl := Host.Outcome.next.inj (hs.symm.trans h)
    exact portInv_of_empty _ rfl rfl (fun _ => rfl) hdelivered

/-- Settles O42: the port is empty after reset. -/
theorem resetMeetsThePortInvariant : Obligations.ResetMeetsThePortInvariant := by
  unfold Obligations.ResetMeetsThePortInvariant
  exact portInv_of_empty _ rfl rfl (fun _ => rfl) (fun _ hr => nomatch hr)

/-! ### The command of an edge -/

/-- Settles O34. -/
theorem stepPerformsTheDecodedCommand : Obligations.StepPerformsTheDecodedCommand := by
  unfold Obligations.StepPerformsTheDecodedCommand
  intro s e rest i hins hrst hdone hheld hvalid hready hd
  have haccepts : e.accepts = true := by rw [e.accepts_of_running hrst, hvalid, hready]; rfl
  rw [step_running s e rest hins hrst hdone]
  rcases runningEdge_cases e { s with inputs := rest } with
    ⟨hnot, -⟩ | ⟨-, -, hperform⟩ | ⟨-, hnot, -⟩
  · exact absurd (hnot.symm.trans hheld) Bool.false_ne_true
  · rw [hperform]
    simp only [performWord, hd]
  · exact absurd (hnot.symm.trans haccepts) Bool.false_ne_true

/-- All 32 bits of a word stand in the table (20_memory.md R48). -/
theorem tableWord_toNat (w : CmdWord) : tableWord 32 w.toNat = w := by
  rw [tableWord, Nat.mod_eq_of_lt w.isLt, BitVec.ofNat_toNat, BitVec.setWidth_eq]

/-- The host of `sendEdge` takes no response, and the block raises none. -/
theorem State.responseSide_sendEdge (s : State) (w : CmdWord) :
    s.responseSide (sendEdge w) = { s with respRaised := !s.pending.isEmpty && s.respRaised } := by
  rw [s.responseSide_of_not_delivers _ (s.delivers_of_not_respReady _ rfl)]
  simp [State.respValid, sendEdge]

/-- Settles O35: `withFetchWord` puts an accepting edge in front. -/
theorem stepPerformsThePlacedWord : Obligations.StepPerformsThePlacedWord := by
  unfold Obligations.StepPerformsThePlacedWord
  intro s w i hdone hd
  have hstep := stepPerformsTheDecodedCommand (s.withFetchWord 32 w.toNat)
    (sendEdge (tableWord 32 w.toNat)) s.inputs i rfl rfl hdone rfl rfl rfl
    (by rw [tableWord_toNat]; exact hd)
  rw [State.responseSide_sendEdge] at hstep
  exact ⟨_, hstep.trans (exec_eq i _), exec_eq i _⟩

/-- Settles O36: the response side moves responses and loses none. -/
theorem nothingAcceptedKeepsTheRegisters : Obligations.NothingAcceptedKeepsTheRegisters := by
  unfold Obligations.NothingAcceptedKeepsTheRegisters
  constructor
  · intro s e rest hins hrst hdone hheld hidle
    have haccepts : e.accepts = false := by rw [e.accepts_of_running hrst, hidle]
    obtain ⟨t, ht⟩ := step_running_total s e rest hins hrst hdone hheld
    have hresps := step_running_responses s t e rest hins hrst hdone ht
    obtain ⟨hregs, -, -, -, hoffered, hinputs, -⟩ :=
      step_running_next s t e rest hins hrst hdone ht
    simp only [haccepts, Bool.false_eq_true, if_false, List.append_nil] at hresps hregs hoffered
    exact ⟨t, ht, hregs, hinputs, hresps, hoffered⟩
  · intro s hins
    simp only [step, stepState, hins]

/-- Settles O37: withdrawn or changed, the word presented is not the one on offer. -/
theorem changedOfferIsRefused : Obligations.ChangedOfferIsRefused := by
  unfold Obligations.ChangedOfferIsRefused
  intro s e rest w hins hrst hdone hoffered hchanged
  have hpresented : e.presented ≠ some w := by
    rcases hchanged with hvalid | hword
    · simp [Edge.presented, hvalid]
    · simp [Edge.presented, hword]
  have hheld : s.offerHeld e = false := by
    rw [s.offerHeld_eq, hoffered]
    exact beq_false_of_ne hpresented
  rw [step_running s e rest hins hrst hdone]
  exact if_neg (Bool.eq_false_iff.mp hheld)

/-! ### The responses at an edge (R43) -/

/-- The oldest response is on the pins of a running edge once it was raised or is raised now. -/
theorem State.respPins_of_raised (s : State) (e : Edge) (r : Response) (rs : List Response)
    (hrst : e.rst = false) (hpending : s.pending = r :: rs)
    (hraised : s.respRaised = true ∨ e.raiseChoice = true) :
    s.respValid e = true ∧ s.respPins e = some r := by
  have hvalid : s.respValid e = true := by
    rw [s.respValid_waiting e r rs hrst hpending]
    exact Bool.or_eq_true_iff.mpr hraised
  simp [State.respPins, hvalid, hpending]

/-- Where nothing is delivered the host has what it had, and the waiting responses stay in front. -/
theorem step_running_of_not_delivers (s t : State) (e : Edge) (rest : List HostInput)
    (hins : s.inputs = .edge e :: rest) (hrst : e.rst = false) (hdone : s.resetDone = true)
    (h : step s = .next t) (hnot : s.delivers e = false) :
    t.delivered = s.delivered ∧ s.pending <+: t.pending ∧ t.respRaised = s.respValid e := by
  obtain ⟨-, hdelivered, hpending, hraised, -⟩ := step_running_next s t e rest hins hrst hdone h
  rw [s.responseSide_of_not_delivers e hnot] at hdelivered hpending hraised
  exact ⟨hdelivered, ⟨_, hpending.symm⟩, hraised⟩

/-- A response on the port that is not taken is on the pins at the next running edge too. -/
theorem respPins_of_not_taken (s t : State) (e e' : Edge) (rest : List HostInput) (r : Response)
    (rs : List Response) (hins : s.inputs = .edge e :: rest) (hrst : e.rst = false)
    (hdone : s.resetDone = true) (h : step s = .next t) (hpending : s.pending = r :: rs)
    (hraised : s.respRaised = true ∨ e.raiseChoice = true) (hready : e.respReady = false)
    (hrst' : e'.rst = false) :
    s.respPins e = some r ∧ t.delivered = s.delivered ∧ t.respPins e' = some r := by
  obtain ⟨hvalid, hpins⟩ := s.respPins_of_raised e r rs hrst hpending hraised
  obtain ⟨hdelivered, ⟨more, hqueue⟩, hheld⟩ := step_running_of_not_delivers s t e rest hins hrst
    hdone h (s.delivers_of_not_respReady e hready)
  rw [hpending] at hqueue
  exact ⟨hpins, hdelivered,
    (t.respPins_of_raised e' r _ hrst' hqueue.symm (.inl (hheld.trans hvalid))).2⟩

/-- A response on the port that is taken is the next one the host has. -/
theorem delivered_of_taken (s t : State) (e : Edge) (rest : List HostInput) (r : Response)
    (rs : List Response) (hins : s.inputs = .edge e :: rest) (hrst : e.rst = false)
    (hdone : s.resetDone = true) (h : step s = .next t) (hpending : s.pending = r :: rs)
    (hraised : s.respRaised = true ∨ e.raiseChoice = true) (hready : e.respReady = true) :
    s.respPins e = some r ∧ t.delivered = s.delivered ++ [r] := by
  obtain ⟨hvalid, hpins⟩ := s.respPins_of_raised e r rs hrst hpending hraised
  obtain ⟨-, hdelivered, -⟩ := step_running_next s t e rest hins hrst hdone h
  rw [s.responseSide_of_delivers e (by rw [State.delivers, hvalid, hready]; rfl), hpending]
    at hdelivered
  exact ⟨hpins, hdelivered⟩

/-- Settles O38, clause by clause. -/
theorem responsesAreQueuedAndHeld : Obligations.ResponsesAreQueuedAndHeld := by
  unfold Obligations.ResponsesAreQueuedAndHeld
  refine ⟨fun s t e rest hins hrst hdone h => step_running_responses s t e rest hins hrst hdone h,
    respPins_of_not_taken, delivered_of_taken, fun s t e rest hins hrst hdone h hvalid => ?_,
    fun e hchoice => ?_, fun s w hdone hoffered => ?_⟩
  · obtain ⟨hdelivered, -⟩ := step_running_of_not_delivers s t e rest hins hrst hdone h
      (s.delivers_of_not_respValid e hvalid)
    exact hdelivered
  · simp [Edge.accepts, Edge.cmdReady, hchoice]
  · obtain ⟨t, ht, -, hpending⟩ := step_sendEdge { s with inputs := [.edge (sendEdge w)] } w [] rfl
      hdone (State.offerHeld_of_offered_none _ _ hoffered)
    exact ⟨t, ht, by rw [hpending, List.length_append]; rfl⟩

/-! ### Before the first reset, and a stopped clock -/

/-- Settles O45. -/
theorem noCommandBeforeTheFirstReset : Obligations.NoCommandBeforeTheFirstReset := by
  unfold Obligations.NoCommandBeforeTheFirstReset
  constructor
  · intro s e rest hins hrst hdone hvalid
    rw [step_edge s e rest hins]
    simp [clockEdge, edgeBeforeReset, hrst, hdone, hvalid]
  · intro s rest hins
    refine ⟨({ s with inputs := rest } : State).powerCycle, ?_, rfl, rfl, rfl, rfl⟩
    simp only [step, stepState, hins, takeInput]

/-- Settles O46. -/
theorem stoppedClockLeavesFreeRegisters : Obligations.StoppedClockLeavesFreeRegisters := by
  unfold Obligations.StoppedClockLeavesFreeRegisters
  intro s rest hins
  simp only [step, stepState, hins, takeInput]
  rfl

end Sys2Proof.Machine
end

section
/-! Runs of running edges: a dutiful host is served (20_memory.md R42), a host that takes no response may
be stalled (70_reset_and_hazards.md R178), and the host of log 20 has its checksum in the end (R130). -/

namespace Sys2Proof.Machine

/-- Settles O40, by induction on the schedule: after each edge the offer is the word that `dutyKept`
makes the host hold. -/
theorem dutifulHostIsNeverRefused : Obligations.DutifulHostIsNeverRefused := by
  unfold Obligations.DutifulHostIsNeverRefused
  intro ins
  induction ins with
  | nil => exact fun _ s _ _ _ _ => ⟨s, core_run_zero s⟩
  | cons i ins ih =>
    intro rest s hedges hdone hins hduty
    cases i with
    | edge e =>
      obtain ⟨hrst, hedges⟩ : e.rst = false ∧ runningEdges ins = true := by
        simpa [runningEdges] using hedges
      obtain ⟨hheld, hduty⟩ := Bool.and_eq_true_iff.mp hduty
      obtain ⟨u, hu⟩ := step_running_total s e (ins ++ rest) hins hrst hdone
        ((s.offerHeld_eq e).trans hheld)
      obtain ⟨-, -, -, -, hoffered, hinputs, hreset⟩ := step_running_next s u e _ hins hrst hdone hu
      rw [← hoffered] at hduty
      obtain ⟨t, ht⟩ := ih rest u hedges hreset hinputs hduty
      exact ⟨t, (core_run_succ _ s u hu).trans ht⟩
    | clockStopped | powerCycled => cases hedges

/-- A host that takes no response at any edge of a schedule is delivered none (R178). -/
theorem run_delivered_of_neverTakes (ins : List HostInput) :
    ∀ (rest : List HostInput) (s t : State), runningEdges ins = true → neverTakes ins = true →
      s.resetDone = true → s.inputs = ins ++ rest → Sys2Proof.core.run ins.length s = .next t →
      t.delivered = s.delivered := by
  induction ins with
  | nil =>
    intro rest s t _ _ _ _ hrun
    obtain rfl := Host.Outcome.next.inj hrun
    rfl
  | cons i ins ih =>
    intro rest s t hedges htakes hdone hins hrun
    cases i with
    | edge e =>
      obtain ⟨hrst, hedges⟩ : e.rst = false ∧ runningEdges ins = true := by
        simpa [runningEdges] using hedges
      obtain ⟨hready, htakes⟩ : e.respReady = false ∧ neverTakes ins = true := by
        simpa [neverTakes] using htakes
      obtain ⟨u, hu, hrun⟩ := core_run_next _ s t hrun
      obtain ⟨-, -, -, -, -, hinputs, hreset⟩ := step_running_next s u e _ hins hrst hdone hu
      obtain ⟨hfirst, -⟩ := step_running_of_not_delivers s u e _ hins hrst hdone hu
        (s.delivers_of_not_respReady e hready)
      exact (ih rest u t hedges htakes hreset hinputs hrun).trans hfirst
    | clockStopped | powerCycled => cases hedges

/-- Behind a stalled edge nothing was accepted, delivered or lost, and the same word is on offer. -/
theorem step_stallEdge (s : State) (w : CmdWord) (rest : List HostInput)
    (hins : s.inputs = .edge (stallEdge w) :: rest) (hdone : s.resetDone = true)
    (hoffered : s.offered = none ∨ s.offered = some w) :
    ∃ t, step s = .next t ∧ t.resetDone = true ∧ t.offered = some w ∧ t.inputs = rest ∧
      t.regs = s.regs ∧ t.pending = s.pending ∧ t.delivered = s.delivered := by
  have hheld : s.offerHeld (stallEdge w) = true := by
    rcases hoffered with h | h <;> simp [s.offerHeld_eq, h, Edge.presented, stallEdge]
  have hside := s.responseSide_of_not_delivers (stallEdge w) (s.delivers_of_not_respReady _ rfl)
  obtain ⟨t, ht⟩ := step_running_total s _ rest hins rfl hdone hheld
  obtain ⟨hregs, hdelivered, hpending, -, hoffer, hinputs, hreset⟩ :=
    step_running_next s t _ rest hins rfl hdone ht
  rw [hside] at hdelivered hpending
  exact ⟨t, ht, hreset, hoffer, hinputs, hregs, hpending.trans (List.append_nil _), hdelivered⟩

/-- A host may be stalled for any number of edges, and is not faulted. -/
theorem run_stallEdges (n : Nat) (w : CmdWord) :
    ∀ (s : State) (rest : List HostInput), s.resetDone = true →
      (s.offered = none ∨ s.offered = some w) →
      s.inputs = List.replicate n (.edge (stallEdge w)) ++ rest →
      ∃ t, Sys2Proof.core.run n s = .next t ∧ t.regs = s.regs ∧ t.pending = s.pending ∧
        t.delivered = s.delivered := by
  induction n with
  | zero => exact fun s _ _ _ _ => ⟨s, core_run_zero s, rfl, rfl, rfl⟩
  | succ n ih =>
    intro s rest hdone hoffered hins
    obtain ⟨u, hu, hreset, hoffer, hinputs, hregs, hpending, hdelivered⟩ :=
      step_stallEdge s w _ hins hdone hoffered
    obtain ⟨t, ht, hregs', hpending', hdelivered'⟩ := ih u rest hreset (.inr hoffer) hinputs
    exact ⟨t, (core_run_succ n s u hu).trans ht, hregs'.trans hregs, hpending'.trans hpending,
      hdelivered'.trans hdelivered⟩

/-- Settles O48. -/
theorem hostThatTakesNothingMayStall : Obligations.HostThatTakesNothingMayStall := by
  unfold Obligations.HostThatTakesNothingMayStall
  exact ⟨run_delivered_of_neverTakes, fun n w s rest => run_stallEdges n w s rest⟩

/-! ### The host of log 20 -/

theorem runningEdges_sendAll (ws : List CmdWord) : runningEdges (sendAll ws) = true := by
  induction ws with
  | nil => rfl
  | cons w ws ih => exact ih

/-- Its schedule accepts its words: a taking edge presents none. -/
theorem acceptedWords_sendAll (ws : List CmdWord) : acceptedWords (sendAll ws) = ws := by
  induction ws with
  | nil => rfl
  | cons w ws ih => exact congrArg (w :: ·) ih

/-- A block that was reset, whose port is idle: no offer is held and no response waits. -/
def PortIdle (s : State) : Prop := s.resetDone = true ∧ s.offered = none ∧ s.pending = []

/-- Sending a word to an idle port and taking its response leaves the port idle. -/
theorem step_send_take (s : State) (w : CmdWord) (rest : List HostInput) (hidle : PortIdle s)
    (hins : s.inputs = .edge (sendEdge w) :: .edge takeEdge :: rest) :
    ∃ t u, step s = .next t ∧ step t = .next u ∧ PortIdle u ∧ u.inputs = rest := by
  obtain ⟨hdone, hoffered, hpending⟩ := hidle
  obtain ⟨t, ht⟩ := step_running_total s _ _ hins rfl hdone (s.offerHeld_of_offered_none _ hoffered)
  obtain ⟨-, -, hpending', -, hoffered', hinputs, hdone'⟩ :=
    step_running_next s t _ _ hins rfl hdone ht
  rw [s.responseSide_sendEdge, hpending] at hpending'
  obtain ⟨u, hu⟩ :=
    step_running_total t _ _ hinputs rfl hdone' (t.offerHeld_of_offered_none _ hoffered')
  obtain ⟨-, -, hpending'', -, hoffered'', hinputs', hdone''⟩ :=
    step_running_next t u _ _ hinputs rfl hdone' hu
  obtain ⟨hvalid, -⟩ := t.respPins_of_raised takeEdge _ _ rfl hpending' (.inr rfl)
  rw [t.responseSide_of_delivers takeEdge (Bool.and_eq_true_iff.mpr ⟨hvalid, rfl⟩), hpending']
    at hpending''
  exact ⟨t, u, ht, hu, ⟨hdone'', hoffered'', hpending''⟩, hinputs'⟩

/-- The host of `sendAll` runs to its end and leaves the port idle. -/
theorem run_sendAll (ws : List CmdWord) : ∀ (s : State) (rest : List HostInput), PortIdle s →
    s.inputs = sendAll ws ++ rest →
    ∃ t, Sys2Proof.core.run (sendAll ws).length s = .next t ∧ PortIdle t := by
  induction ws with
  | nil => exact fun s _ hidle _ => ⟨s, core_run_zero s, hidle⟩
  | cons w ws ih =>
    intro s rest hidle hins
    obtain ⟨t, u, ht, hu, hidle', hinputs⟩ := step_send_take s w (sendAll ws ++ rest) hidle hins
    obtain ⟨v, hv, hend⟩ := ih u rest hidle' hinputs
    exact ⟨v, (core_run_succ _ s t ht).trans ((core_run_succ _ t u hu).trans hv), hend⟩

/-- Settles O51: the run of `sendAll` follows the abstract semantics, and leaves no response waiting. -/
theorem calculateCrcCompletesForOneHost : Obligations.CalculateCrcCompletesForOneHost := by
  unfold Obligations.CalculateCrcCompletesForOneHost
  intro seg payload poly init s hdone hoffered hpending hins
  rw [← List.append_nil (sendAll _)] at hins
  obtain ⟨t, ht, -, -, hempty⟩ := run_sendAll _ s [] ⟨hdone, hoffered, hpending⟩ hins
  obtain ⟨⟨-, hresps⟩, hinputs, -⟩ :=
    run_followsBy _ [] s t (runningEdges_sendAll _) hdone hins ht
  rw [acceptedWords_sendAll, abstractRun_calculateWords, hempty, hpending, List.append_nil,
    List.append_nil] at hresps
  rw [List.append_nil] at hins
  exact ⟨t, _, by rw [hins]; exact ht, hresps, hempty, hinputs,
    resultText_calculateResponses seg payload poly init⟩

end Sys2Proof.Machine
end

section
/-! Commands alone, repeated and inserted (10_state.md R20, 20_memory.md R51, 41_config.md R114): what a
command may write, that reads and writes repeat, and that INIT is read by CRC_INIT only. -/

namespace Sys2Proof.Machine

theorem writtenReg_eq_CRC_iff (i : Instr) :
    writtenReg i = some .CRC ↔ i = .crcInit ∨ ∃ cp, i = .crcByte cp := by
  cases i <;> simp [writtenReg]

/-- Settles O15: a register a command is not said to write is not the one it writes. -/
theorem commandFrame : Obligations.CommandFrame := by
  unfold Obligations.CommandFrame
  intro i s
  refine ⟨_, exec_eq i s, fun hbyte hinit => ?_, fun hpoly => ?_, fun hinit => ?_, ⟨_, rfl⟩,
    rfl, rfl, rfl, rfl, rfl, rfl⟩
  · refine readReg_regsAfter_of_not_written i .CRC s fun hwritten => ?_
    rcases (writtenReg_eq_CRC_iff i).mp hwritten with h | ⟨cp, h⟩
    exacts [hinit h, hbyte cp h]
  · refine readReg_regsAfter_of_not_written i .POLY s fun hwritten => ?_
    obtain ⟨v, h⟩ := (writtenReg_eq_POLY_iff i).mp hwritten
    exact hpoly v h
  · refine readReg_regsAfter_of_not_written i .INIT s fun hwritten => ?_
    obtain ⟨v, h⟩ := (writtenReg_eq_INIT_iff i).mp hwritten
    exact hinit v h

/-- The state behind a command: the next state of `exec_eq`. -/
def State.after (s : State) (i : Instr) : State :=
  (s.withRegs (regsAfter i s)).respond (answerOf i s).data (answerOf i s).err

theorem State.after_pending (s : State) (i : Instr) :
    (s.after i).pending = s.pending ++ [answerOf i s] := rfl

theorem performWords_once (i : Instr) (s : State) :
    performWords [encode i] s = .next (s.after i) := by
  simp only [performWords, performWord_encode]
  rfl

theorem performWords_twice (i : Instr) (s : State) :
    performWords [encode i, encode i] s = .next ((s.after i).after i) := by
  simp only [performWords, performWord_encode]
  rfl

/-- A read keeps the registers, and answers from the registers alone. -/
theorem read_repeats (i : Instr) (hi : i = .crcRead ∨ i = .polyRead ∨ i = .initRead) (s : State) :
    regsAfter i s = s.regs ∧ answerOf i (s.after i) = answerOf i s := by
  rcases hi with rfl | rfl | rfl <;> exact ⟨rfl, rfl⟩

/-- A configuration write or CRC_INIT writes a value that it does not itself change. -/
theorem write_idempotent (i : Instr) (v : Word)
    (hi : i = .polyWrite v ∨ i = .initWrite v ∨ i = .crcInit) (s : State) :
    regsAfter i (s.after i) = regsAfter i s := by
  rcases hi with rfl | rfl | rfl <;> rfl

theorem State.after_crcByte_crc (s : State) (cp : Cp) :
    (s.after (.crcByte cp)).crc = absorb s.crc s.poly (charByte cp) := rfl

theorem State.after_crcByte_poly (s : State) (cp : Cp) :
    (s.after (.crcByte cp)).poly = s.poly := rfl

/-- Settles O19: after reset, the character 0 twice leaves another CRC than once. -/
theorem readsRepeatWritesAreIdempotent : Obligations.ReadsRepeatWritesAreIdempotent := by
  unfold Obligations.ReadsRepeatWritesAreIdempotent
  have honce : absorb State.reset.crc State.reset.poly (charByte 0x00#21) = 0xE1F0#16 := by decide
  have htwice : absorb 0xE1F0#16 State.reset.poly (charByte 0x00#21) ≠ 0xE1F0#16 := by decide
  refine ⟨fun i hi s => ?_, fun i v hi s => ?_, ?_⟩
  · obtain ⟨hregs, -⟩ := read_repeats i hi s
    obtain ⟨hregs', -⟩ := read_repeats i hi (s.after i)
    obtain ⟨-, hanswer⟩ := read_repeats i hi s
    refine ⟨_, _, answerOf i s, performWords_once i s, performWords_twice i s, hregs,
      hregs'.trans hregs, ?_⟩
    rw [State.after_pending, State.after_pending, hanswer, List.append_assoc]
    rfl
  · exact ⟨_, _, performWords_once i s, performWords_twice i s, write_idempotent i v hi s⟩
  · refine ⟨State.reset, _, _, 0x00#21, performWords_once _ _, performWords_twice _ _,
      fun hregs => ?_⟩
    have hcrc := congrArg Regs.crc hregs
    simp only [State.after_crcByte_crc, State.after_crcByte_poly, State.regs_crc, honce] at hcrc
    exact htwice hcrc

/-- Two states in which a running computation stands alike: all but INIT of the registers. -/
def SameComputation (s t : State) : Prop := s.crc = t.crc ∧ s.poly = t.poly

/-- Of all commands CRC_INIT alone reads INIT into a computation. -/
theorem performWord_sameComputation (w : CmdWord) (hw : decode w ≠ .command .crcInit)
    (s s' t t' : State) (hsame : SameComputation s s') (ht : performWord w s = .next t)
    (ht' : performWord w s' = .next t') : SameComputation t t' := by
  obtain ⟨hcrc, hpoly⟩ := hsame
  obtain ⟨hregs, -⟩ := performWord_regs w s t ht
  obtain ⟨hregs', -⟩ := performWord_regs w s' t' ht'
  have hstep : (abstractExec s.regs w).1.crc = (abstractExec s'.regs w).1.crc ∧
      (abstractExec s.regs w).1.poly = (abstractExec s'.regs w).1.poly := by
    cases hd : decode w with
    | illegal => simp [abstractExec, hd, hcrc, hpoly]
    | command i =>
      cases i with
      | crcInit => exact absurd hd hw
      | crcByte _ | crcRead | polyWrite _ | initWrite _ | polyRead | initRead =>
        simp [abstractExec, hd, hcrc, hpoly]
  rw [← hregs, ← hregs'] at hstep
  exact hstep

/-- A computation goes on alike along words with no CRC_INIT. -/
theorem performWords_sameComputation (ws : List CmdWord)
    (hws : ∀ w ∈ ws, decode w ≠ .command .crcInit) :
    ∀ s s' t t' : State, SameComputation s s' → performWords ws s = .next t →
      performWords ws s' = .next t' → SameComputation t t' := by
  induction ws with
  | nil =>
    intro s s' t t' hsame ht ht'
    obtain rfl := Host.Outcome.next.inj ht
    obtain rfl := Host.Outcome.next.inj ht'
    exact hsame
  | cons w ws ih =>
    intro s s' t t' hsame ht ht'
    obtain ⟨hw, hrest⟩ := List.forall_mem_cons.mp hws
    obtain ⟨u, hu⟩ := performWord_total w s
    obtain ⟨u', hu'⟩ := performWord_total w s'
    simp only [performWords, hu] at ht
    simp only [performWords, hu'] at ht'
    exact ih hrest u u' t t' (performWord_sameComputation w hw s s' u u' hsame hu hu') ht ht'

/-- Settles O21: INIT_WRITE leaves a state in which the computation stands as before. -/
theorem initWriteLeavesARunningComputation : Obligations.InitWriteLeavesARunningComputation := by
  unfold Obligations.InitWriteLeavesARunningComputation
  intro v before after s hafter
  obtain ⟨m, hm⟩ := performWords_total before s
  obtain ⟨t, ht⟩ := performWords_total after m
  obtain ⟨u, hu⟩ := performWords_total after (m.after (.initWrite v))
  obtain ⟨hcrc, hpoly⟩ := performWords_sameComputation after hafter (m.after (.initWrite v)) m u t
    ⟨rfl, rfl⟩ hu ht
  refine ⟨t, u, (performWords_append before after s m hm).trans ht, ?_, hcrc, hpoly⟩
  rw [performWords_append before _ s m hm]
  simp only [performWords, performWord_encode]
  exact hu

end Sys2Proof.Machine
end

section
/-! How a host cuts text into characters (42_host_sequence.md R135). -/

namespace Sys2Proof.Machine

/-- 21 bits hold every code point. -/
theorem toNat_ofNat_codePoint (c : CodePoint) : (BitVec.ofNat 21 c.val).toNat = c.val := by
  obtain ⟨-, -, hfits⟩ := sequenceOfCalculateCrcIsLegal
  exact hfits c

theorem chars_codePoint (payload : Text) :
    chars .codePoint payload = payload.map fun c => BitVec.ofNat 21 c.val :=
  List.map_eq_flatMap.symm

/-- Up to U+FFFF a code point is its own UTF-16 unit. -/
theorem utf16Units_of_le (c : CodePoint) (hc : c.val ≤ 0xFFFF) :
    utf16Units c = [BitVec.ofNat 21 c.val] :=
  if_pos (Nat.lt_succ_of_le hc)

/-- Above U+FFFF a code point is two surrogates, each with ten bits of its offset from U+10000. -/
theorem exists_surrogates (c : CodePoint) (hc : 0xFFFF < c.val) : ∃ hi lo : Cp,
    utf16Units c = [hi, lo] ∧
    hi.toNat = 0xD800 + (c.val - 0x10000) / 0x400 ∧ lo.toNat = 0xDC00 + (c.val - 0x10000) % 0x400 := by
  have hlt : c.val < 0x110000 := c.isLt
  refine ⟨_, _, if_neg (by omega), ?_, ?_⟩
  · rw [BitVec.toNat_ofNat, Nat.mod_eq_of_lt (by omega)]
  · rw [BitVec.toNat_ofNat, Nat.mod_eq_of_lt (by omega)]

/-- Settles O55. -/
theorem segmentationsAgreeUpToFFFF : Obligations.SegmentationsAgreeUpToFFFF := by
  unfold Obligations.SegmentationsAgreeUpToFFFF
  refine ⟨fun payload => ?_, fun payload hpayload => ?_, fun c hc => ?_, by decide⟩
  · rw [chars_codePoint, List.map_map]
    exact List.map_congr_left fun c _ => toNat_ofNat_codePoint c
  · exact List.flatMap_congr fun c hc => utf16Units_of_le c (hpayload c hc)
  · have hlt : c.val < 0x110000 := c.isLt
    obtain ⟨hi, lo, hunits, hhi, hlo⟩ := exists_surrogates c hc
    exact ⟨hi, lo, (List.append_nil _).trans hunits, by omega, by omega, by omega, by omega, by omega⟩

end Sys2Proof.Machine
end

section
/-! The assembler (30_encoding.md R70, R72): the operands it takes and refuses, and how it reads the text
of a command. -/

namespace Sys2Proof.Machine

/-! ### Operands -/

theorem assemble_of_not_wellFormed (seg : Segmentation) (st : AsmStmt)
    (h : st.wellFormed = false) : assemble seg st = none :=
  if_neg (Bool.eq_false_iff.mp h)

/-- A statement of one command with an operand assembles exactly where its check holds: the argument
for the three mnemonics that have an operand. -/
theorem assemble_eq_ite (seg : Segmentation) (st : AsmStmt) (i : Instr) (w : CmdWord) (P : Prop)
    [Decidable P] (hcheck : st.wellFormed = decide P) (hexpand : expand seg st = [i])
    (hword : P → encode i = w) : assemble seg st = if P then some [w] else none := by
  by_cases hP : P
  · rw [assemble_of_wellFormed seg st (hcheck.trans (decide_eq_true hP)), hexpand, if_pos hP,
      ← hword hP]
    rfl
  · rw [assemble_of_not_wellFormed seg st (hcheck.trans (decide_eq_false hP)), if_neg hP]

/-- Settles O59: the check of R70 is the range of the operand's field. -/
theorem assemblerChecksOperands : Obligations.AssemblerChecksOperands := by
  unfold Obligations.AssemblerChecksOperands
  obtain ⟨-, hbyte, -, hpoly, hinit, -⟩ := encode_words
  refine ⟨fun seg n => ?_, fun seg n => ?_, fun seg n => ?_, fun seg c => ?_, fun _ _ => ⟨rfl, rfl⟩⟩
  · exact assemble_eq_ite seg _ _ _ _ rfl rfl
      fun hn => by rw [hpoly, AsmOperand.value, BitVec.setWidth_ofNat_of_le_of_lt (by decide) hn]
  · exact assemble_eq_ite seg _ _ _ _ rfl rfl
      fun hn => by rw [hinit, AsmOperand.value, BitVec.setWidth_ofNat_of_le_of_lt (by decide) hn]
  · exact assemble_eq_ite seg _ _ _ _ rfl rfl
      fun hn => by rw [hbyte, AsmOperand.value, BitVec.setWidth_ofNat_of_le_of_lt (by decide) hn]
  · have hfits : c.val < 2 ^ 21 := c.isLt.trans (by decide)
    rw [assemble_of_wellFormed seg (.crcByte (.character c)) (decide_eq_true hfits)]
    simp only [expand, List.map_cons, List.map_nil, hbyte, AsmOperand.value,
      BitVec.setWidth_ofNat_of_le_of_lt (by decide : 21 ≤ 32) hfits]

/-! ### Lexing -/

/-- A character that neither ends a word nor breaks it. -/
def isPlain (c : Char) : Bool :=
  !isGap c && !(c == ';') && !(c == ',') && !(c.toNat == 39) && !(c.toNat == 34)

/-- A plain character begins a word, or extends the one it stands in. -/
theorem lexFrom_plain (c : Char) (cs : List Char) (hc : isPlain c = true) :
    lexFrom .gap (c :: cs) = lexFrom (.word [c]) cs ∧
    ∀ back, lexFrom (.word back) (c :: cs) = lexFrom (.word (c :: back)) cs := by
  simp only [isPlain, Bool.and_eq_true, Bool.not_eq_true'] at hc
  obtain ⟨⟨⟨⟨hgap, hsemi⟩, hcomma⟩, hquote⟩, hdouble⟩ := hc
  simp [lexFrom, hgap, hsemi, hcomma, hquote, hdouble]

theorem lexFrom_word_append (cs rest : List Char) (hcs : cs.all isPlain = true) :
    ∀ back, lexFrom (.word back) (cs ++ rest) = lexFrom (.word (cs.reverse ++ back)) rest := by
  induction cs with
  | nil => exact fun _ => rfl
  | cons c cs ih =>
    intro back
    obtain ⟨hc, hcs⟩ : isPlain c = true ∧ cs.all isPlain = true := by simpa using hcs
    obtain ⟨-, hword⟩ := lexFrom_plain c (cs ++ rest) hc
    rw [List.cons_append, hword, ih hcs, List.reverse_cons, List.append_assoc]
    rfl

/-- From a gap, plain characters are read as one word. -/
theorem lexFrom_gap_append (cs rest : List Char) (hne : cs ≠ []) (hcs : cs.all isPlain = true) :
    lexFrom .gap (cs ++ rest) = lexFrom (.word cs.reverse) rest := by
  obtain ⟨c, cs, rfl⟩ := List.exists_cons_of_ne_nil hne
  obtain ⟨hc, hcs⟩ : isPlain c = true ∧ cs.all isPlain = true := by simpa using hcs
  obtain ⟨hgap, -⟩ := lexFrom_plain c (cs ++ rest) hc
  rw [List.cons_append, hgap, lexFrom_word_append cs rest hcs, List.reverse_cons]

/-- Plain characters alone are one token. -/
theorem lexFrom_gap_word (m : List Char) (hm : m ≠ []) (hplain : m.all isPlain = true) :
    lexFrom .gap m = some [.word m] := by
  have hend := lexFrom_gap_append m [] hm hplain
  rw [List.append_nil] at hend
  simpa [lexFrom] using hend

/-- Two words with a space between them are two tokens. -/
theorem lexFrom_two_words (m op : List Char) (hm : m ≠ []) (hop : op ≠ [])
    (hmplain : m.all isPlain = true) (hopplain : op.all isPlain = true) :
    lexFrom .gap (m ++ ' ' :: op) = some [.word m, .word op] := by
  have hspace : lexFrom (.word m.reverse) (' ' :: op) =
      (lexFrom .gap op).map (AsmToken.word m.reverse.reverse :: ·) := rfl
  rw [lexFrom_gap_append m _ hm hmplain, hspace, lexFrom_gap_word op hop hopplain,
    List.reverse_reverse]
  rfl

/-! ### Numbers -/

theorem hexDigit_isPlain : ∀ d : BitVec 4, isPlain (hexDigit d) = true := by decide

theorem hexDigitValue_hexDigit : ∀ d : BitVec 4, hexDigitValue (hexDigit d) = some d.toNat := by
  decide

/-- The number that hexadecimal digits stand for, after `acc`, the first the most significant. -/
def hexValue (acc : Nat) (ds : List (BitVec 4)) : Nat := ds.foldl (fun n d => n * 16 + d.toNat) acc

theorem digitsValue_hexDigits (ds : List (BitVec 4)) :
    ∀ acc, digitsValue 16 hexDigitValue acc (ds.map hexDigit) = some (hexValue acc ds) := by
  induction ds with
  | nil => exact fun _ => rfl
  | cons d ds ih =>
    intro acc
    simp only [List.map_cons, digitsValue, hexDigitValue_hexDigit]
    exact ih _

/-- A hexadecimal operand as `render` writes it. -/
def hexText (ds : List (BitVec 4)) : List Char := '0' :: 'x' :: ds.map hexDigit

theorem hexText_isPlain (ds : List (BitVec 4)) : (hexText ds).all isPlain = true := by
  have hdigits : (ds.map hexDigit).all isPlain = true := by
    simp [List.all_map, Function.comp_def, hexDigit_isPlain]
  exact hdigits

theorem parseNumber_hexText (ds : List (BitVec 4)) (hds : ds ≠ []) :
    parseNumber (hexText ds) = some (hexValue 0 ds) := by
  obtain ⟨d, ds, rfl⟩ := List.exists_cons_of_ne_nil hds
  exact digitsValue_hexDigits (d :: ds) 0

/-- The four digits of FORMAT (R131), as `render` writes a VAL. -/
def valDigits (v : Word) : List (BitVec 4) :=
  [v.extractLsb' 12 4, v.extractLsb' 8 4, v.extractLsb' 4 4, v.extractLsb' 0 4]

/-- The six digits `render` writes for a CP. -/
def cpDigits (cp : Cp) : List (BitVec 4) :=
  cp.extractLsb' 20 4 :: cp.extractLsb' 16 4 :: valDigits (cp.extractLsb' 0 16)

/-- The four digits make up the value, below the digits before them. -/
theorem hexValue_valDigits (acc : Nat) (v : Word) :
    hexValue acc (valDigits v) = acc * 2 ^ 16 + v.toNat := by
  have hv := v.isLt
  simp only [hexValue, valDigits, List.foldl_cons, List.foldl_nil, BitVec.extractLsb'_toNat,
    Nat.shiftRight_eq_div_pow]
  omega

theorem hexValue_cpDigits (cp : Cp) : hexValue 0 (cpDigits cp) = cp.toNat := by
  have hcp := cp.isLt
  have hhigh : hexValue 0 (cpDigits cp) =
      hexValue ((cp.extractLsb' 20 4).toNat * 16 + (cp.extractLsb' 16 4).toNat)
        (valDigits (cp.extractLsb' 0 16)) := by
    simp [hexValue, cpDigits]
  rw [hhigh, hexValue_valDigits]
  simp only [BitVec.extractLsb'_toNat, Nat.shiftRight_eq_div_pow]
  omega

/-! ### The text of a command -/

/-- The statement a command is written as. -/
def stmtOf : Instr → AsmStmt
  | .crcInit => .crcInit
  | .crcByte cp => .crcByte (.number cp.toNat)
  | .crcRead => .crcRead
  | .polyWrite val => .polyWrite (.number val.toNat)
  | .initWrite val => .initWrite (.number val.toNat)
  | .polyRead => .polyRead
  | .initRead => .initRead

/-- A command's own operand fits its field. -/
theorem stmtOf_wellFormed (i : Instr) : (stmtOf i).wellFormed = true := by
  cases i with
  | crcByte cp => exact decide_eq_true cp.isLt
  | polyWrite val | initWrite val => exact fitsVal_toNat val
  | crcInit | crcRead | polyRead | initRead => rfl

theorem expand_stmtOf (seg : Segmentation) (i : Instr) : expand seg (stmtOf i) = [i] := by
  cases i <;> simp [stmtOf, expand, AsmOperand.value]

/-- A mnemonic alone on its line is read as the statement of that mnemonic. -/
theorem assembleLine_mnemonic (seg : Segmentation) (m : List Char) (st : AsmStmt) (hm : m ≠ [])
    (hplain : m.all isPlain = true) (hstmt : parseStmt m [] = some st) :
    assembleLine seg m = assemble seg st := by
  simp [assembleLine, lexFrom_gap_word m hm hplain, parseTokens, hstmt]

/-- A mnemonic and a hexadecimal operand are read as the mnemonic's statement of the operand's number:
the argument for the three mnemonics that have one operand. -/
theorem assembleLine_hexText (seg : Segmentation) (m : List Char) (mk : AsmOperand → AsmStmt)
    (ds : List (BitVec 4)) (n : Nat) (hm : m ≠ []) (hplain : m.all isPlain = true)
    (hparse : ∀ cs, parseStmt m [.word cs] = (parseOperand (.word cs)).map mk) (hds : ds ≠ [])
    (hn : hexValue 0 ds = n) :
    assembleLine seg (m ++ ' ' :: hexText ds) = assemble seg (mk (.number n)) := by
  have hlex := lexFrom_two_words m (hexText ds) hm (List.cons_ne_nil _ _) hplain (hexText_isPlain ds)
  simp [assembleLine, hlex, parseTokens, hparse, parseOperand, parseNumber_hexText ds hds, hn]

/-- The three mnemonics with one operand (R70). -/
theorem parseStmt_operand :
    (∀ cs, parseStmt "CRC_BYTE".toList [.word cs] = (parseOperand (.word cs)).map .crcByte) ∧
    (∀ cs, parseStmt "POLY_WRITE".toList [.word cs] = (parseOperand (.word cs)).map .polyWrite) ∧
    (∀ cs, parseStmt "INIT_WRITE".toList [.word cs] = (parseOperand (.word cs)).map .initWrite) := by
  simp [parseStmt]

/-- How `render` writes the commands that have an operand. -/
theorem render_operand :
    (∀ cp, render (.crcByte cp) = "CRC_BYTE".toList ++ ' ' :: hexText (cpDigits cp)) ∧
    (∀ val, render (.polyWrite val) = "POLY_WRITE".toList ++ ' ' :: hexText (valDigits val)) ∧
    (∀ val, render (.initWrite val) = "INIT_WRITE".toList ++ ' ' :: hexText (valDigits val)) := by
  have hbyte : "CRC_BYTE 0x".toList = "CRC_BYTE".toList ++ [' ', '0', 'x'] := by decide
  have hpoly : "POLY_WRITE 0x".toList = "POLY_WRITE".toList ++ [' ', '0', 'x'] := by decide
  have hinit : "INIT_WRITE 0x".toList = "INIT_WRITE".toList ++ [' ', '0', 'x'] := by decide
  unfold render
  simp only [hbyte, hpoly, hinit, hexText, cpDigits, valDigits, formatText, List.map_cons,
    List.map_nil, List.append_assoc, List.cons_append, List.nil_append, implies_true, and_self]

/-- A command's text is read as its statement. -/
theorem assembleLine_render (seg : Segmentation) (i : Instr) :
    assembleLine seg (render i) = assemble seg (stmtOf i) := by
  obtain ⟨hbyte, hpoly, hinit⟩ := render_operand
  obtain ⟨hparseByte, hparsePoly, hparseInit⟩ := parseStmt_operand
  cases i with
  | crcByte cp =>
    rw [hbyte]
    exact assembleLine_hexText seg _ .crcByte _ _ (by decide) (by decide) hparseByte
      (List.cons_ne_nil _ _) (hexValue_cpDigits cp)
  | polyWrite val =>
    rw [hpoly]
    exact assembleLine_hexText seg _ .polyWrite _ _ (by decide) (by decide) hparsePoly
      (List.cons_ne_nil _ _) (by simp [hexValue_valDigits])
  | initWrite val =>
    rw [hinit]
    exact assembleLine_hexText seg _ .initWrite _ _ (by decide) (by decide) hparseInit
      (List.cons_ne_nil _ _) (by simp [hexValue_valDigits])
  | crcInit | crcRead | polyRead | initRead =>
    exact assembleLine_mnemonic seg _ _ (by decide) (by decide) (by decide)

/-- Settles O60: the text is read as the command's statement, which assembles to its word. -/
theorem textOfACommandAssemblesToItsWord : Obligations.TextOfACommandAssemblesToItsWord := by
  unfold Obligations.TextOfACommandAssemblesToItsWord
  intro seg i
  rw [assembleLine_render, assemble_of_wellFormed seg _ (stmtOf_wellFormed i), expand_stmtOf]
  rfl

end Sys2Proof.Machine
end
